-- ==== Sys2Proof/Word.lean ====
section
/-! DEFINITION. The byte, the level of a line, and the fixed parameters of 00_scope.md R6. -/

namespace Sys2Proof

/-- A byte is 8 bits and always unsigned (R7). -/
abbrev Byte := BitVec 8

/-- A level is 1 (high, `true`) or 0 (low, `false`) (R7). -/
abbrev Level := Bool

/-- `MAX_DIGITS` (R6): the largest digit count. -/
abbrev maxDigits : Nat := 6

/-- `MIN_DIGITS` (R6): the smallest digit count. -/
abbrev minDigits : Nat := 1

/-- `LEVEL_MAX` (R6): the largest brightness level after clamping. -/
abbrev levelMax : Nat := 8

/-- `TXT_SIZE` (R6): bytes of text memory. -/
abbrev txtSize : Nat := 12

end Sys2Proof
end

