-- ==== Sys2Proof/Syntax.lean ====
section
/-! DEFINITION. The instructions: one constructor per row of spec/opcode_table.json. -/

namespace Sys2Proof

/-- One constructor per row of the table, in the table's order.
An operation carries its 8-bit argument also where the block does not read it (R72): the block latches it (R31). -/
inductive Instr where
  /-- `start()` (R104) -/
  | tStart (arg : Byte)
  /-- `stop()` (R105) -/
  | tStop (arg : Byte)
  /-- `write_byte(byte)` (R108) -/
  | tByte (b : Byte)
  /-- `init()` (R142) -/
  | init (arg : Byte)
  /-- `set_brightness(level)` (R143) -/
  | setBright (level : Byte)
  /-- `set_digit_count(count)` (R144) -/
  | setDigits (count : Byte)
  /-- `write_raw(bytes)` (R145) -/
  | writeRaw (arg : Byte)
  /-- `write_string(text)` (R186) -/
  | writeStr (n : Byte)
  /-- `clear()` (R146) -/
  | clear (arg : Byte)
  /-- reserved code 0 (R73) -/
  | reserved0 (arg : Byte)
  /-- reserved code A (R73) -/
  | reservedA (arg : Byte)
  /-- reserved code B (R73) -/
  | reservedB (arg : Byte)
  /-- reserved code C (R73) -/
  | reservedC (arg : Byte)
  /-- reserved code D (R73) -/
  | reservedD (arg : Byte)
  /-- reserved code E (R73) -/
  | reservedE (arg : Byte)
  /-- reserved code F (R73) -/
  | reservedF (arg : Byte)
  /-- buffer write `SEGBUF[i] <- b` (R51, R52) -/
  | seg (i : BitVec 4) (b : Byte)
  /-- buffer write `TXT[i] <- b` (R51, R52) -/
  | chr (i : BitVec 4) (b : Byte)
  /-- wire command byte `0x40` (R75) -/
  | wDataCmd
  /-- wire command byte `0xC0` (R76) -/
  | wAddrCmd
  /-- wire command byte `0x80` (R77) -/
  | wDispOff
  /-- wire command bytes `0x88` to `0x8F` (R77) -/
  | wDispOn (bbb : BitVec 3)
  /-- encoder entry of `'-'` (R181) -/
  | segromMinus
  /-- encoder entry of `'1'` (R181) -/
  | segrom1
  /-- encoder entry of `'2'` (R181) -/
  | segrom2
  /-- encoder entry of `'3'` (R181) -/
  | segrom3
  /-- encoder entry of `'4'` (R181) -/
  | segrom4
  /-- encoder entry of `'5'` (R181) -/
  | segrom5
  /-- encoder entry of space (R181) -/
  | segromSpace
  /-- encoder entry of `'0'` (R182) -/
  | segrom0
  /-- encoder entry of `'6'` (R182) -/
  | segrom6
  /-- encoder entry of `'7'` (R182) -/
  | segrom7
  /-- encoder entry of `'8'` (R182) -/
  | segrom8
  /-- encoder entry of `'9'` (R182) -/
  | segrom9
  /-- encoder entry of A or a (R183); `lower` is the ignored case bit, also in the rows that follow -/
  | segromA (lower : Bool)
  /-- encoder entry of B or b (R183) -/
  | segromB (lower : Bool)
  /-- encoder entry of C or c (R183) -/
  | segromC (lower : Bool)
  /-- encoder entry of D or d (R183) -/
  | segromD (lower : Bool)
  /-- encoder entry of E or e (R183) -/
  | segromE (lower : Bool)
  /-- encoder entry of F or f (R183) -/
  | segromF (lower : Bool)
  /-- encoder entry of G or g (R183) -/
  | segromG (lower : Bool)
  /-- encoder entry of H or h (R183) -/
  | segromH (lower : Bool)
  /-- encoder entry of I or i (R183) -/
  | segromI (lower : Bool)
  /-- encoder entry of J or j (R183) -/
  | segromJ (lower : Bool)
  /-- encoder entry of L or l (R183) -/
  | segromL (lower : Bool)
  /-- encoder entry of N or n (R183) -/
  | segromN (lower : Bool)
  /-- encoder entry of O or o (R183) -/
  | segromO (lower : Bool)
  /-- encoder entry of P or p (R183) -/
  | segromP (lower : Bool)
  /-- encoder entry of Q or q (R183) -/
  | segromQ (lower : Bool)
  /-- encoder entry of R or r (R183) -/
  | segromR (lower : Bool)
  /-- encoder entry of S or s (R183) -/
  | segromS (lower : Bool)
  /-- encoder entry of T or t (R183) -/
  | segromT (lower : Bool)
  /-- encoder entry of U or u (R183) -/
  | segromU (lower : Bool)
  /-- encoder entry of Y or y (R183) -/
  | segromY (lower : Bool)
  /-- every character code no other row matches (R184) -/
  | segromOther (c : Byte)
deriving DecidableEq, Repr

end Sys2Proof
end

