-- ==== Sys2Proof/WellFormed.lean ====
section
/-! DEFINITION. Which terms of `Instr` are instructions: the one check the table asks for. -/

namespace Sys2Proof

/-- The character codes that a SEGROM row other than OTHER matches (R181 to R183):
minus, the ten digits, space, and the twenty letters of the subset in either case. -/
def isMappedCode (c : Byte) : Bool :=
  c == 0x2D || c == 0x20 || (0x30 ≤ c && c ≤ 0x39) ||
    [0x41, 0x42, 0x43, 0x44, 0x45, 0x46, 0x47, 0x48, 0x49, 0x4A, 0x4C, 0x4E, 0x4F,
      0x50, 0x51, 0x52, 0x53, 0x54, 0x55, (0x59 : Byte)].contains (c &&& 0xDF)

/-- OTHER is the row of lowest priority: it stands only for codes no other SEGROM row matches (R184).
Every other constructor carries exactly the bits its row leaves open, so nothing else can be ill-formed. -/
def WellFormed : Instr → Bool
  | .segromOther c => !isMappedCode c
  | _ => true

end Sys2Proof
end

