-- ==== Sys2Proof/Decode.lean ====
section
/-! DEFINITION. The encodings of 30_encoding.md and 20_memory.md R51: the words of each format, the decoder, the
encoder, and the opcode table's rows.

A word reaches the block on a port, and the port says its format: decoding is per format, and there each word has one
meaning. Only the flat numbering of the table (`decodeTableWord`) has to guess the format from the number of bits. -/

namespace Sys2Proof

/-- The four formats of spec/opcode_table.json (30_encoding.md, opening paragraph). -/
inductive Format where
  | hostCmd
  | bufWr
  | wireCmd
  | segRom
deriving DecidableEq, Repr

/-- A word of one format: the command word `CW = {cmd_op, cmd_arg}` (R70), the buffer write
`{buf_sel, buf_addr, buf_wdata}` (R51), a wire command byte (R74), a character code looked up in the encoder (R180). -/
inductive FetchWord where
  | cmd (w : BitVec 12)
  | buf (w : BitVec 13)
  | wire (b : Byte)
  | code (c : Byte)
deriving DecidableEq, Repr

/-- Why bits are no instruction. -/
inductive DecodeError where
  /-- a byte of format WIRECMD that is none of `0x40`, `0xC0`, `0x80`, `0x88` to `0x8F` (R78) -/
  | notAWireCommand (b : Byte)
  /-- fewer bytes than the format's word has -/
  | truncated
  /-- a bit set above the format's width -/
  | excessBits
deriving DecidableEq, Repr

/-- The command word (R70, R71, R73). All sixteen codes have a row; the last arm is code `0xF` alone. -/
def decodeCmd (w : BitVec 12) : Instr :=
  let arg : Byte := w.extractLsb' 0 8
  match w.extractLsb' 8 4 with
  | 0x0#4 => .reserved0 arg
  | 0x1#4 => .tStart arg
  | 0x2#4 => .tStop arg
  | 0x3#4 => .tByte arg
  | 0x4#4 => .init arg
  | 0x5#4 => .setBright arg
  | 0x6#4 => .setDigits arg
  | 0x7#4 => .writeRaw arg
  | 0x8#4 => .writeStr arg
  | 0x9#4 => .clear arg
  | 0xA#4 => .reservedA arg
  | 0xB#4 => .reservedB arg
  | 0xC#4 => .reservedC arg
  | 0xD#4 => .reservedD arg
  | 0xE#4 => .reservedE arg
  | _ => .reservedF arg

/-- The buffer write (R51): bit 12 selects the buffer, bits 11 to 8 the entry, bits 7 to 0 the byte. -/
def decodeBuf (w : BitVec 13) : Instr :=
  if w.getLsbD 12 then .chr (w.extractLsb' 8 4) (w.extractLsb' 0 8)
  else .seg (w.extractLsb' 8 4) (w.extractLsb' 0 8)

/-- The wire command bytes (R74 to R77); any other byte is none (R78). -/
def decodeWire (b : Byte) : Except DecodeError Instr :=
  if b = 0x40 then .ok .wDataCmd
  else if b = 0xC0 then .ok .wAddrCmd
  else if b = 0x80 then .ok .wDispOff
  else if b &&& 0xF8 = 0x88 then .ok (.wDispOn (b.extractLsb' 0 3))
  else .error (.notAWireCommand b)

/-- The letter of the subset that a code stands for, its case bit (bit 5) cleared (R183). -/
def decodeLetter (upper : Byte) (lower : Bool) : Option Instr :=
  match upper with
  | 0x41#8 => some (.segromA lower)
  | 0x42#8 => some (.segromB lower)
  | 0x43#8 => some (.segromC lower)
  | 0x44#8 => some (.segromD lower)
  | 0x45#8 => some (.segromE lower)
  | 0x46#8 => some (.segromF lower)
  | 0x47#8 => some (.segromG lower)
  | 0x48#8 => some (.segromH lower)
  | 0x49#8 => some (.segromI lower)
  | 0x4A#8 => some (.segromJ lower)
  | 0x4C#8 => some (.segromL lower)
  | 0x4E#8 => some (.segromN lower)
  | 0x4F#8 => some (.segromO lower)
  | 0x50#8 => some (.segromP lower)
  | 0x51#8 => some (.segromQ lower)
  | 0x52#8 => some (.segromR lower)
  | 0x53#8 => some (.segromS lower)
  | 0x54#8 => some (.segromT lower)
  | 0x55#8 => some (.segromU lower)
  | 0x59#8 => some (.segromY lower)
  | _ => none

/-- The encoder's rows (R181 to R184). -/
def decodeCode (c : Byte) : Instr :=
  match c with
  | 0x2D#8 => .segromMinus
  | 0x31#8 => .segrom1
  | 0x32#8 => .segrom2
  | 0x33#8 => .segrom3
  | 0x34#8 => .segrom4
  | 0x35#8 => .segrom5
  | 0x20#8 => .segromSpace
  | 0x30#8 => .segrom0
  | 0x36#8 => .segrom6
  | 0x37#8 => .segrom7
  | 0x38#8 => .segrom8
  | 0x39#8 => .segrom9
  | _ => (decodeLetter (c &&& 0xDF) (c.getLsbD 5)).getD (.segromOther c)

/-- The decoder, total on the words of every format. -/
def decode : FetchWord → Except DecodeError Instr
  | .cmd w => .ok (decodeCmd w)
  | .buf w => .ok (decodeBuf w)
  | .wire b => decodeWire b
  | .code c => .ok (decodeCode c)

/-- A letter's code: its upper-case code, bit 5 set for the lower case (R82, R183). -/
def letterCode (upper : Byte) (lower : Bool) : Byte :=
  if lower then upper ||| 0x20 else upper

/-- The word of a well-formed instruction, from the same tables (R70, R71, R51, R74 to R77, R181 to R184). -/
def encode : Instr → FetchWord
  | .tStart a => .cmd (0x1#4 ++ a)
  | .tStop a => .cmd (0x2#4 ++ a)
  | .tByte a => .cmd (0x3#4 ++ a)
  | .init a => .cmd (0x4#4 ++ a)
  | .setBright a => .cmd (0x5#4 ++ a)
  | .setDigits a => .cmd (0x6#4 ++ a)
  | .writeRaw a => .cmd (0x7#4 ++ a)
  | .writeStr a => .cmd (0x8#4 ++ a)
  | .clear a => .cmd (0x9#4 ++ a)
  | .reserved0 a => .cmd (0x0#4 ++ a)
  | .reservedA a => .cmd (0xA#4 ++ a)
  | .reservedB a => .cmd (0xB#4 ++ a)
  | .reservedC a => .cmd (0xC#4 ++ a)
  | .reservedD a => .cmd (0xD#4 ++ a)
  | .reservedE a => .cmd (0xE#4 ++ a)
  | .reservedF a => .cmd (0xF#4 ++ a)
  | .seg i b => .buf (0#1 ++ i ++ b)
  | .chr i b => .buf (1#1 ++ i ++ b)
  | .wDataCmd => .wire 0x40
  | .wAddrCmd => .wire 0xC0
  | .wDispOff => .wire 0x80
  | .wDispOn bbb => .wire (0b10001#5 ++ bbb)
  | .segromMinus => .code 0x2D
  | .segrom1 => .code 0x31
  | .segrom2 => .code 0x32
  | .segrom3 => .code 0x33
  | .segrom4 => .code 0x34
  | .segrom5 => .code 0x35
  | .segromSpace => .code 0x20
  | .segrom0 => .code 0x30
  | .segrom6 => .code 0x36
  | .segrom7 => .code 0x37
  | .segrom8 => .code 0x38
  | .segrom9 => .code 0x39
  | .segromA l => .code (letterCode 0x41 l)
  | .segromB l => .code (letterCode 0x42 l)
  | .segromC l => .code (letterCode 0x43 l)
  | .segromD l => .code (letterCode 0x44 l)
  | .segromE l => .code (letterCode 0x45 l)
  | .segromF l => .code (letterCode 0x46 l)
  | .segromG l => .code (letterCode 0x47 l)
  | .segromH l => .code (letterCode 0x48 l)
  | .segromI l => .code (letterCode 0x49 l)
  | .segromJ l => .code (letterCode 0x4A l)
  | .segromL l => .code (letterCode 0x4C l)
  | .segromN l => .code (letterCode 0x4E l)
  | .segromO l => .code (letterCode 0x4F l)
  | .segromP l => .code (letterCode 0x50 l)
  | .segromQ l => .code (letterCode 0x51 l)
  | .segromR l => .code (letterCode 0x52 l)
  | .segromS l => .code (letterCode 0x53 l)
  | .segromT l => .code (letterCode 0x54 l)
  | .segromU l => .code (letterCode 0x55 l)
  | .segromY l => .code (letterCode 0x59 l)
  | .segromOther c => .code c

/-- A row of spec/opcode_table.json: its mnemonic, its format, and the bits it fixes. -/
structure Row where
  mnemonic : String
  format : Format
  mtch : Nat
  mask : Nat
deriving DecidableEq, Repr

/-- The row an instruction belongs to. -/
def rowOf : Instr → Row
  | .tStart _ => ⟨"T_START", .hostCmd, 0x100, 0xF00⟩
  | .tStop _ => ⟨"T_STOP", .hostCmd, 0x200, 0xF00⟩
  | .tByte _ => ⟨"T_BYTE", .hostCmd, 0x300, 0xF00⟩
  | .init _ => ⟨"INIT", .hostCmd, 0x400, 0xF00⟩
  | .setBright _ => ⟨"SET_BRIGHT", .hostCmd, 0x500, 0xF00⟩
  | .setDigits _ => ⟨"SET_DIGITS", .hostCmd, 0x600, 0xF00⟩
  | .writeRaw _ => ⟨"WRITE_RAW", .hostCmd, 0x700, 0xF00⟩
  | .writeStr _ => ⟨"WRITE_STR", .hostCmd, 0x800, 0xF00⟩
  | .clear _ => ⟨"CLEAR", .hostCmd, 0x900, 0xF00⟩
  | .reserved0 _ => ⟨"RESERVED_0", .hostCmd, 0x000, 0xF00⟩
  | .reservedA _ => ⟨"RESERVED_A", .hostCmd, 0xA00, 0xF00⟩
  | .reservedB _ => ⟨"RESERVED_B", .hostCmd, 0xB00, 0xF00⟩
  | .reservedC _ => ⟨"RESERVED_C", .hostCmd, 0xC00, 0xF00⟩
  | .reservedD _ => ⟨"RESERVED_D", .hostCmd, 0xD00, 0xF00⟩
  | .reservedE _ => ⟨"RESERVED_E", .hostCmd, 0xE00, 0xF00⟩
  | .reservedF _ => ⟨"RESERVED_F", .hostCmd, 0xF00, 0xF00⟩
  | .seg _ _ => ⟨"SEG", .bufWr, 0x0000, 0x1000⟩
  | .chr _ _ => ⟨"CHR", .bufWr, 0x1000, 0x1000⟩
  | .wDataCmd => ⟨"W_DATA_CMD", .wireCmd, 0x40, 0xFF⟩
  | .wAddrCmd => ⟨"W_ADDR_CMD", .wireCmd, 0xC0, 0xFF⟩
  | .wDispOff => ⟨"W_DISP_OFF", .wireCmd, 0x80, 0xFF⟩
  | .wDispOn _ => ⟨"W_DISP_ON", .wireCmd, 0x88, 0xF8⟩
  | .segromMinus => ⟨"SEGROM_MINUS", .segRom, 0x2D, 0xFF⟩
  | .segrom1 => ⟨"SEGROM_1", .segRom, 0x31, 0xFF⟩
  | .segrom2 => ⟨"SEGROM_2", .segRom, 0x32, 0xFF⟩
  | .segrom3 => ⟨"SEGROM_3", .segRom, 0x33, 0xFF⟩
  | .segrom4 => ⟨"SEGROM_4", .segRom, 0x34, 0xFF⟩
  | .segrom5 => ⟨"SEGROM_5", .segRom, 0x35, 0xFF⟩
  | .segromSpace => ⟨"SEGROM_SPACE", .segRom, 0x20, 0xFF⟩
  | .segrom0 => ⟨"SEGROM_0", .segRom, 0x30, 0xFF⟩
  | .segrom6 => ⟨"SEGROM_6", .segRom, 0x36, 0xFF⟩
  | .segrom7 => ⟨"SEGROM_7", .segRom, 0x37, 0xFF⟩
  | .segrom8 => ⟨"SEGROM_8", .segRom, 0x38, 0xFF⟩
  | .segrom9 => ⟨"SEGROM_9", .segRom, 0x39, 0xFF⟩
  | .segromA _ => ⟨"SEGROM_A", .segRom, 0x41, 0xDF⟩
  | .segromB _ => ⟨"SEGROM_B", .segRom, 0x42, 0xDF⟩
  | .segromC _ => ⟨"SEGROM_C", .segRom, 0x43, 0xDF⟩
  | .segromD _ => ⟨"SEGROM_D", .segRom, 0x44, 0xDF⟩
  | .segromE _ => ⟨"SEGROM_E", .segRom, 0x45, 0xDF⟩
  | .segromF _ => ⟨"SEGROM_F", .segRom, 0x46, 0xDF⟩
  | .segromG _ => ⟨"SEGROM_G", .segRom, 0x47, 0xDF⟩
  | .segromH _ => ⟨"SEGROM_H", .segRom, 0x48, 0xDF⟩
  | .segromI _ => ⟨"SEGROM_I", .segRom, 0x49, 0xDF⟩
  | .segromJ _ => ⟨"SEGROM_J", .segRom, 0x4A, 0xDF⟩
  | .segromL _ => ⟨"SEGROM_L", .segRom, 0x4C, 0xDF⟩
  | .segromN _ => ⟨"SEGROM_N", .segRom, 0x4E, 0xDF⟩
  | .segromO _ => ⟨"SEGROM_O", .segRom, 0x4F, 0xDF⟩
  | .segromP _ => ⟨"SEGROM_P", .segRom, 0x50, 0xDF⟩
  | .segromQ _ => ⟨"SEGROM_Q", .segRom, 0x51, 0xDF⟩
  | .segromR _ => ⟨"SEGROM_R", .segRom, 0x52, 0xDF⟩
  | .segromS _ => ⟨"SEGROM_S", .segRom, 0x53, 0xDF⟩
  | .segromT _ => ⟨"SEGROM_T", .segRom, 0x54, 0xDF⟩
  | .segromU _ => ⟨"SEGROM_U", .segRom, 0x55, 0xDF⟩
  | .segromY _ => ⟨"SEGROM_Y", .segRom, 0x59, 0xDF⟩
  | .segromOther _ => ⟨"SEGROM_OTHER", .segRom, 0x00, 0x00⟩

/-- The format a word belongs to. -/
def FetchWord.format : FetchWord → Format
  | .cmd _ => .hostCmd
  | .buf _ => .bufWr
  | .wire _ => .wireCmd
  | .code _ => .segRom

/-- A word's bits as a number, numbered as the table numbers them. -/
def FetchWord.bits : FetchWord → Nat
  | .cmd w => w.toNat
  | .buf w => w.toNat
  | .wire b => b.toNat
  | .code c => c.toNat

/-- A word matches a row: its format, and every bit the row fixes. -/
def Row.Matches (r : Row) (w : FetchWord) : Prop :=
  w.format = r.format ∧ w.bits &&& r.mask = r.mtch

/-- The width of a format's word in bits (the table's `width`). -/
def Format.width : Format → Nat
  | .hostCmd => 12
  | .bufWr => 13
  | .wireCmd => 8
  | .segRom => 8

/-- A format's word from its bits, numbered as the table numbers them. -/
def FetchWord.ofBits : Format → Nat → FetchWord
  | .hostCmd, n => .cmd (BitVec.ofNat 12 n)
  | .bufWr, n => .buf (BitVec.ofNat 13 n)
  | .wireCmd, n => .wire (BitVec.ofNat 8 n)
  | .segRom, n => .code (BitVec.ofNat 8 n)

/-- Read one word of a format from bytes, the byte of bits 7 to 0 first (DESIGN CHOICE, log 16: the block stores no
words, its ports take them whole). -/
def FetchWord.ofBytes (f : Format) (bs : List Byte) : Except DecodeError (FetchWord × List Byte) :=
  if f.width ≤ 8 then
    match bs with
    | b :: rest => .ok (.ofBits f b.toNat, rest)
    | [] => .error .truncated
  else
    match bs with
    | b0 :: b1 :: rest =>
      let n := b0.toNat + 256 * b1.toNat
      if n < 2 ^ f.width then .ok (.ofBits f n, rest) else .error .excessBits
    | _ => .error .truncated

/-- The decoder on bytes: total, rejecting by name, answering the bytes that follow. -/
def decodeBytes (f : Format) (bs : List Byte) : Except DecodeError (Instr × List Byte) :=
  match FetchWord.ofBytes f bs with
  | .error e => .error e
  | .ok (w, rest) =>
    match decode w with
    | .error e => .error e
    | .ok i => .ok (i, rest)

/-- Which format a table word of `nbits` bits is read as (DESIGN CHOICE, log 16).
The table numbers words of two ports in the same bits; with the exact widths 12 and 13 there is no doubt.
Rounded up to 16 bits: bit 12 set is a buffer write, code 0 in bits 11 to 8 is the buffer write to entry 0 (as a
command word it would be a reserved code), any other code is a command word.
Eight bits: a wire command byte when it is one, else a character code. -/
def formatOf (nbits w : Nat) : Option Format :=
  if nbits ≤ 8 then
    match decodeWire (BitVec.ofNat 8 w) with
    | .ok _ => some .wireCmd
    | .error _ => some .segRom
  else if nbits ≤ 12 then some .hostCmd
  else if nbits = 13 then some .bufWr
  else if nbits ≤ 16 then
    if w / 2 ^ 12 % 2 = 1 then some .bufWr
    else if w / 2 ^ 8 % 16 = 0 then some .bufWr
    else some .hostCmd
  else none

/-- The table word laid out as bytes, least significant byte first. -/
def tableBytes (nbits w : Nat) : List Byte :=
  (List.range ((nbits + 7) / 8)).map fun k => BitVec.ofNat 8 (w / 256 ^ k)

/-- The word that a table word of `nbits` bits stands for. -/
def tableWord (nbits w : Nat) : Option FetchWord :=
  match formatOf nbits w with
  | none => none
  | some f =>
    match FetchWord.ofBytes f (tableBytes nbits w) with
    | .ok (fw, _) => some fw
    | .error _ => none

/-- The instruction the decoder reads from a table word. -/
def decodeTableWord (nbits w : Nat) : Option Instr :=
  match formatOf nbits w with
  | none => none
  | some f =>
    match decodeBytes f (tableBytes nbits w) with
    | .ok (i, _) => some i
    | .error _ => none

end Sys2Proof
end

