-- ==== Sys2Proof/Machine/Memory.lean ====
section
/-! DEFINITION. The receiver's display memory (20_memory.md R50, last row; R55, R61) as a list of cells. -/

namespace Sys2Proof.Machine

/-- Cells in canonical form: addresses strictly rising. An address that is not listed is not known (`none`), so no
entry can equal what an unlisted address reads as. DESIGN CHOICE, log 24. -/
abbrev Memory := List Host.Cell

/-- The canonical form. -/
def Memory.wf : Memory → Bool
  | [] => true
  | [_] => true
  | (a, _) :: (b, y) :: rest => decide (a < b) && Memory.wf ((b, y) :: rest)

/-- The byte known to stand at an address. -/
def Memory.read : Memory → Nat → Option Byte
  | [], _ => none
  | (a, x) :: rest, k => if a = k then some x else Memory.read rest k

/-- Writing one byte keeps the order and replaces an older byte at the address. -/
def Memory.write : Memory → Nat → Byte → Memory
  | [], k, v => [(k, v)]
  | (a, x) :: rest, k, v =>
    if k < a then (k, v) :: (a, x) :: rest
    else if a = k then (k, v) :: rest
    else (a, x) :: Memory.write rest k v

end Sys2Proof.Machine
end

