-- ==== Sys2Proof/Config.lean ====
section
/-! DEFINITION. What an implementation fixes (00_scope.md R6) and the free values.
Each OPEN parameter is a constant with no body: nothing can evaluate it, so a claim holds whatever it is. -/

namespace Sys2Proof

/-- The elements that 10_state.md R36 marks "unspecified" after reset, and ARG and the rest of R29 with them. -/
structure PowerUp where
  segbuf : Vector Byte 6
  txt : Vector Byte 12
  xbuf : Vector Byte 6
  op : BitVec 4
  arg : Byte
  byteIdx : BitVec 3
  nbytes : BitVec 3
  bitIdx : BitVec 4
  stepIdx : BitVec 4
  shift : Byte
  err : Bool
  ackv : Bool
deriving DecidableEq, Repr, Inhabited

/-- What the unspecified elements hold after the `n`-th reset (R36, U3). DESIGN CHOICE, log 3. -/
opaque Config.powerUp (n : Nat) : PowerUp

/-- The receiver's drive at a SAMPLE for which no level is given (R103, U9). DESIGN CHOICE, log 6. -/
opaque Config.freeLevel (n : Nat) : Level

/-- `DIGITS_INIT` (R6): the digit count supplied at construction, before clamping. Log 4. -/
opaque Config.digitsInit : Byte

/-- `ALPHA_EN` (R6): whether the alphabet extension of the encoder is enabled. Log 5. -/
opaque Config.alphaEn : Bool

/-- The entries of `SEG_ROM` that the source does not give: `'0'`, `'6'` to `'9'`, and the upper-case letters of
the subset (R182, R183). A pattern has 7 bits, so bit 7 of an entry is 0 (R180). Log 5. -/
opaque Config.openGlyph (c : Byte) : BitVec 7

/-- The default font of R182 and R183 (general knowledge, not in the source). No meaning uses it; it is there for a
claim that takes the default as a named premise, and for the vectors marked "default table". -/
def Config.defaultGlyph (c : Byte) : BitVec 7 :=
  match c with
  | 0x30#8 => 0x3F | 0x36#8 => 0x7D | 0x37#8 => 0x07 | 0x38#8 => 0x7F | 0x39#8 => 0x6F
  | 0x41#8 => 0x77 | 0x42#8 => 0x7C | 0x43#8 => 0x39 | 0x44#8 => 0x5E | 0x45#8 => 0x79
  | 0x46#8 => 0x71 | 0x47#8 => 0x3D | 0x48#8 => 0x76 | 0x49#8 => 0x30 | 0x4A#8 => 0x1E
  | 0x4C#8 => 0x38 | 0x4E#8 => 0x54 | 0x4F#8 => 0x3F | 0x50#8 => 0x73 | 0x51#8 => 0x67
  | 0x52#8 => 0x50 | 0x53#8 => 0x6D | 0x54#8 => 0x78 | 0x55#8 => 0x3E | 0x59#8 => 0x6E
  | _ => 0

end Sys2Proof
end

