-- ==== Sys2Proof/Machine/Operands.lean ====
section
/-! DEFINITION. How the operands of the operations are read: the clamps (30_encoding.md R72, 41_sequencer.md R143,
R144), the wire command bytes (R74 to R77), the encoder table and its walk over a text (42_encoder.md R180 to R189). -/

namespace Sys2Proof.Machine

/-- `min(ARG, 8)` (R72, R143). -/
def brightLevel (arg : Byte) : Nat := min arg.toNat levelMax

/-- `W_DATA_CMD` (R75). -/
def dataCmd : Byte := 0x40

/-- `W_ADDR_CMD` (R76). -/
def addrCmd : Byte := 0xC0

/-- `W_DISP_OFF` (R77). -/
def dispOff : Byte := 0x80

/-- `W_DISP_ON` with brightness sub-field `bbb` (R77): `0x88 | bbb`. -/
def dispOn (bbb : BitVec 3) : Byte := 0x88 ||| bbb.setWidth 8

/-- The byte `SET_BRIGHT` sends (R143): level 0 is off, level 1 to 8 is on with sub-field `level - 1`. -/
def brightByte (arg : Byte) : Byte :=
  if brightLevel arg = 0 then dispOff
  else dispOn (BitVec.ofNat 3 (brightLevel arg - 1))

/-- The digit count's clamp (R144): 0 becomes 1, more than 6 becomes 6. -/
def clampDigits (arg : Byte) : BitVec 3 :=
  if arg = 0 then BitVec.ofNat 3 minDigits
  else if maxDigits < arg.toNat then BitVec.ofNat 3 maxDigits
  else BitVec.ofNat 3 arg.toNat

/-- `n = min(ARG, 12)` (R72, R186): the number of characters of the text. -/
def textLength (arg : Byte) : Nat := min arg.toNat txtSize

/-- The six patterns and the blank that the source fixes (R181). -/
def fixedGlyph (c : Byte) : Option Byte :=
  match c with
  | 0x2D#8 => some 0x40
  | 0x31#8 => some 0x06
  | 0x32#8 => some 0x5B
  | 0x33#8 => some 0x4F
  | 0x34#8 => some 0x66
  | 0x35#8 => some 0x6D
  | 0x20#8 => some 0x00
  | _ => none

/-- The digits whose patterns are entries of the parameter `SEG_ROM` (R182). -/
def isOpenDigit (c : Byte) : Bool :=
  match c with
  | 0x30#8 | 0x36#8 | 0x37#8 | 0x38#8 | 0x39#8 => true
  | _ => false

/-- The twenty letters of the subset, by their upper-case codes (R183). -/
def isSubsetLetter (upper : Byte) : Bool :=
  match upper with
  | 0x41#8 | 0x42#8 | 0x43#8 | 0x44#8 | 0x45#8 | 0x46#8 | 0x47#8 | 0x48#8 | 0x49#8 | 0x4A#8
  | 0x4C#8 | 0x4E#8 | 0x4F#8 | 0x50#8 | 0x51#8 | 0x52#8 | 0x53#8 | 0x54#8 | 0x55#8 | 0x59#8 => true
  | _ => false

/-- `SEG(c)` as a function of the parameters (R180 to R184): `alpha` is `ALPHA_EN`, `glyph` the open entries of
`SEG_ROM`. Clearing bit 5 folds the two cases of a letter together (R183). -/
def segWith (alpha : Bool) (glyph : Byte → BitVec 7) (c : Byte) : Byte :=
  match fixedGlyph c with
  | some g => g
  | none =>
    if isOpenDigit c then (glyph c).setWidth 8
    else if isSubsetLetter (c &&& 0xDF) then
      if alpha then (glyph (c &&& 0xDF)).setWidth 8 else 0
    else 0

/-- `SEG(c)` (R180), for the parameters of this implementation (R6). -/
def segOf (c : Byte) : Byte := segWith Config.alphaEn Config.openGlyph c

/-- The code of the literal decimal point (R82). -/
def pointCode : Byte := 0x2E

/-- The decimal-point bit (R81, R185). -/
def pointBit : Byte := 0x80

/-- `TXT[i]` (R24). The walk reads below index 12 only (R188), so the value past the end is never used. -/
def charAt (txt : Vector Byte 12) (i : Nat) : Byte := (txt[i]?).getD 0

/-- The walk of `WRITE_STR` (R186) from character `i` on, for the positions still to fill: a character takes a position,
a point right after it is consumed and sets bit 7, and when the text has run out the position is blank. -/
def textWalk (seg : Byte → Byte) (txt : Vector Byte 12) (n : Nat) : Nat → Nat → List Byte
  | 0, _ => []
  | d + 1, i =>
    if i < n then
      if i + 1 < n ∧ charAt txt (i + 1) = pointCode then
        (seg (charAt txt i) ||| pointBit) :: textWalk seg txt n d (i + 2)
      else seg (charAt txt i) :: textWalk seg txt n d (i + 1)
    else 0 :: textWalk seg txt n d i

/-- The command codes (R71). -/
abbrev opTStart : BitVec 4 := 0x1
abbrev opTStop : BitVec 4 := 0x2
abbrev opTByte : BitVec 4 := 0x3
abbrev opInit : BitVec 4 := 0x4
abbrev opSetBright : BitVec 4 := 0x5
abbrev opSetDigits : BitVec 4 := 0x6
abbrev opWriteRaw : BitVec 4 := 0x7
abbrev opWriteStr : BitVec 4 := 0x8
abbrev opClear : BitVec 4 := 0x9

/-- The reserved codes (R73). -/
def isReservedOp (op : BitVec 4) : Bool :=
  match op with
  | 0x0#4 | 0xA#4 | 0xB#4 | 0xC#4 | 0xD#4 | 0xE#4 | 0xF#4 => true
  | _ => false

/-- The first byte of the frame an operation sends (R74, table), `none` for an operation that sends no frame. -/
def commandByte (op : BitVec 4) (arg : Byte) : Option Byte :=
  match op with
  | 0x4#4 => some dataCmd
  | 0x5#4 => some (brightByte arg)
  | 0x7#4 | 0x8#4 | 0x9#4 => some addrCmd
  | _ => none

end Sys2Proof.Machine
end

