-- ==== Sys2Proof/Machine/State.lean ====
section
/-! DEFINITION. The state of the machine (10_state.md), its inputs, and its value after reset (R36). -/

namespace Sys2Proof.Machine

/-- The pin events (00_scope.md R9). -/
inductive PinEvent where
  /-- `c`: drive the clock line low -/
  | clk0
  /-- `C`: drive the clock line high -/
  | clk1
  /-- `d`: drive the data line low -/
  | dat0
  /-- `D`: drive or release the data line high -/
  | dat1
  /-- `B`: drive both lines high in one step -/
  | both1
  /-- `w`: wait one micro-delay -/
  | delay
  /-- `S0`, `S1`: read the data line's input level once -/
  | sample (a : Level)
deriving DecidableEq, Repr

/-- `STAGE` (R29): 0 idle, 1 pull-high of `INIT`, 2 start condition, 3 byte, 4 stop condition. -/
inductive Stage where
  | idle
  | pullHigh
  | start
  | byte
  | stop
deriving DecidableEq, Repr

/-- Where the receiver stands in a frame (R12, R80). DEDUCED, log 14. -/
inductive RxPlace where
  /-- no frame is open -/
  | outside
  /-- a start condition was seen: the next byte is the wire command byte -/
  | command
  /-- `0xC0` was taken: the next byte goes to this address (R55, R61) -/
  | address (n : Nat)
  /-- a one-byte frame is complete: only a stop condition may follow (R80, format `F1`) -/
  | complete
  /-- a use the spec gives no meaning to on the receiver's side (R117, R218) -/
  | lost
deriving DecidableEq, Repr

/-- What is known of the receiver (R34: "a receiver of its own"). Not state of the block. DEDUCED, log 14. -/
structure Receiver where
  place : RxPlace
  /-- known to be in data-write mode with auto-increment (R75) -/
  dataMode : Bool
  /-- known contents of the display memory (R50, R55) -/
  mem : Memory
  /-- the last display-control byte taken: on/off bit and brightness sub-field (R77) -/
  display : Option (Bool × BitVec 3)
deriving DecidableEq, Repr

/-- The input ports in one cycle (R33). `sda_i` is not here: it is `SDA_O & RX_SDA` (R21), so the receiver's own drive
`rxSda` is the input. -/
structure PortIn where
  rstN : Bool
  cmdValid : Bool
  cmdOp : BitVec 4
  cmdArg : Byte
  bufWe : Bool
  bufSel : Bool
  bufAddr : BitVec 4
  bufWdata : Byte
  rxSda : Level
deriving DecidableEq, Repr

/-- What the host does next: present a word and wait for the operation to end (R10b, R83), or drive the ports for one
clock cycle (R33). Log 1, 17. -/
inductive HostAct where
  | word (w : FetchWord)
  | clk (p : PortIn)
deriving DecidableEq, Repr

/-- The state: what 10_state.md gives the block, the receiver's view, and the model's own fields. -/
structure State where
  /-- `SCL_O` (R20) -/
  scl : Level
  /-- `SDA_O` (R20); high means released -/
  sda : Level
  /-- `DIGITS` (R22) -/
  digits : BitVec 3
  /-- `SEGBUF` (R23) -/
  segbuf : Vector Byte 6
  /-- `TXT` (R24) -/
  txt : Vector Byte 12
  /-- `XBUF` (R25) -/
  xbuf : Vector Byte 6
  /-- `RESULT` (R26): `true` is 1, failure -/
  result : Bool
  /-- `BUSY` (R27) -/
  busy : Bool
  /-- `PHASE` (R28): `true` is framing; no rule reads it -/
  phase : Bool
  /-- the `done` output (R33, R148) -/
  done : Bool
  /-- `OP` (R29) -/
  op : BitVec 4
  /-- `ARG`, latched at acceptance (R31) -/
  arg : Byte
  /-- `STAGE` (R29) -/
  stage : Stage
  /-- `BYTE_IDX` (R29) -/
  byteIdx : BitVec 3
  /-- `NBYTES` (R29) -/
  nbytes : BitVec 3
  /-- `BIT_IDX` (R29) -/
  bitIdx : BitVec 4
  /-- `STEP` (R29, R111) -/
  stepIdx : BitVec 4
  /-- `SHIFT` (R29, R108) -/
  shift : Byte
  /-- `ERR` (R32) -/
  err : Bool
  /-- `ACKV` (R32) -/
  ackv : Bool
  /-- what is known of the receiver (R34); log 14 -/
  rx : Receiver
  /-- model's own: the byte the last SEGROM row gave (R180); log 13 -/
  segOut : Byte
  /-- model's own: the pin events of the run, oldest first (R8, R57); log 11 -/
  trace : List PinEvent
  /-- model's own: the host's actions still to come (R10b); log 17 -/
  host : List HostAct
  /-- model's own: the receiver's drive at the coming SAMPLEs (R10c); log 6 -/
  rxIn : List Level
  /-- model's own: index of the next free value; log 3, 6 -/
  free : Nat
deriving DecidableEq, Repr

/-- The machine stops with a fault. The block has no trap (R212); this is the model's own. -/
inductive Fault where
  /-- Raised by an event step (`tick`) in a sequencer position that R29 and R111 do not list; no step leads to such a
  position from a legal one. Safe: the machine stops. Log 20. -/
  | illegalPosition
deriving DecidableEq, Repr

/-- A step that has no meaning. -/
inductive Refusal where
  /-- Raised by `exec` for an instruction that has no meaning yet; none is left. Safe: the machine stops. -/
  | notModelled (mnemonic : String)
  /-- Raised by `step` for a host action whose word is no instruction: a wire byte that R78 gives no meaning.
  Safe: the machine stops. Log 19. -/
  | notAnInstruction (e : DecodeError)
deriving DecidableEq, Repr

/-- Nothing is known of the receiver, and it stands at `place` (R36 last row, R231). -/
def Receiver.unknownAt (place : RxPlace) : Receiver :=
  { place := place, dataMode := false, mem := [], display := none }

/-- The machine after the reset that draws the `n`-th free values (R36): every element of the block at the value R36
gives it, the elements R36 marks unspecified at a free value (log 3), the receiver not known, and the model's own
fields empty (log 17, 23). R36 calls the receiver's state unknown; that it stands outside a frame, so that the first
`INIT` is understood, is DESIGN CHOICE, log 26. -/
def State.powerOn (n : Nat) : State :=
  let p := Config.powerUp n
  { scl := true
    sda := true
    digits := clampDigits Config.digitsInit
    segbuf := p.segbuf
    txt := p.txt
    xbuf := p.xbuf
    result := false
    busy := false
    phase := false
    done := false
    op := p.op
    arg := p.arg
    stage := .idle
    byteIdx := p.byteIdx
    nbytes := p.nbytes
    bitIdx := p.bitIdx
    stepIdx := p.stepIdx
    shift := p.shift
    err := p.err
    ackv := p.ackv
    rx := Receiver.unknownAt .outside
    segOut := 0
    trace := []
    host := []
    rxIn := []
    free := n + 1 }

/-- The machine right after reset (R36). -/
def State.reset : State := State.powerOn 0

end Sys2Proof.Machine
end

