-- ==== Sys2Proof/Machine/Receiver.lean ====
section
/-! DEFINITION. What is known of the receiver after each part of a frame (10_state.md R34; 20_memory.md R55, R61;
30_encoding.md R75 to R77). Log 14, 15, 27, 28. No operation of the block reads it. -/

namespace Sys2Proof.Machine

/-- Nothing is known any more, and what further bytes mean to the receiver is not either (R117, R218). -/
def Receiver.forget : Receiver := Receiver.unknownAt .lost

/-- `BOTH1`: harmless when the lines are already high and no frame is open; else R117. -/
def Receiver.onRaise (r : Receiver) (scl sda : Level) : Receiver :=
  if scl && sda && r.place = .outside then r else Receiver.forget

/-- The end of a start condition: a frame is open and the next byte is its wire command byte (R12, "opcode"). -/
def Receiver.onStart (r : Receiver) : Receiver :=
  match r.place with
  | .outside => { r with place := .command }
  | _ => Receiver.forget

/-- A wire command byte that was acknowledged (R75 to R77); any other value has no meaning (R78). -/
def Receiver.onCommand (r : Receiver) (b : Byte) : Receiver :=
  match decodeWire b with
  | .ok .wDataCmd => { r with place := .complete, dataMode := true }
  | .ok .wAddrCmd => { r with place := .address 0 }
  | .ok .wDispOff => { r with place := .complete, display := some (false, 0) }
  | .ok (.wDispOn bbb) => { r with place := .complete, display := some (true, bbb) }
  | _ => Receiver.forget

/-- A segment byte that was acknowledged lands at the address, and the address rises by one (R55, R61).
Without the data-write mode, or past the sixth address, it is not known where it lands (R233, R61). -/
def Receiver.onSegment (r : Receiver) (n : Nat) (b : Byte) : Receiver :=
  if r.dataMode && decide (n < maxDigits) then
    { r with place := .address (n + 1), mem := Memory.write r.mem n b }
  else { r with place := .address (n + 1), mem := [] }

/-- The end of a byte: `a` is the level sampled. A byte that was not acknowledged may or may not have been taken
(R218), so nothing is known after it. An acknowledged byte is taken as sent on the premises A1 to A3 of R114: DESIGN
CHOICE, log 28. -/
def Receiver.onByte (r : Receiver) (b : Byte) (a : Level) : Receiver :=
  if a then Receiver.forget
  else
    match r.place with
    | .command => r.onCommand b
    | .address n => r.onSegment n b
    | _ => Receiver.forget

/-- The end of a stop condition: no frame is open. A stop that closes no byte is a use R117 does not describe: nothing is
known after it. That the receiver then stands outside a frame, so that later frames count again, also after a use that
R117 does not describe or a byte not acknowledged, is DESIGN CHOICE, log 27. -/
def Receiver.onStop (r : Receiver) : Receiver :=
  match r.place with
  | .complete | .address _ | .lost => { r with place := .outside }
  | _ => Receiver.unknownAt .outside

end Sys2Proof.Machine
end

