-- ==== Sys2Proof/Machine/Ops.lean ====
section
/-! DEFINITION. The named operations over the lines and the buffers: pin events (40_transport.md R100 to R103), the
cells and conditions (R104 to R107), the byte (R108), the one error (60_exceptions.md R212), the frame
(41_sequencer.md R140), the buffer port (20_memory.md R51, R52). -/

namespace Sys2Proof.Machine

/-- `emit(e)` (R8, R100): the event's effect on the lines, and its entry in the trace. `DELAY` and `SAMPLE` write no
line (R102, R103). -/
def emit (e : PinEvent) (s : State) : State :=
  match e with
  | .clk0 => { s with scl := false, trace := s.trace ++ [e] }
  | .clk1 => { s with scl := true, trace := s.trace ++ [e] }
  | .dat0 => { s with sda := false, trace := s.trace ++ [e] }
  | .dat1 => { s with sda := true, trace := s.trace ++ [e] }
  | .both1 => { s with scl := true, sda := true, trace := s.trace ++ [e] }
  | .delay => { s with trace := s.trace ++ [e] }
  | .sample _ => { s with trace := s.trace ++ [e] }

/-- `DAT(v)` (R9). -/
def datEvent (v : Level) : PinEvent := if v then .dat1 else .dat0

/-- Several events, one after another in the order given (R57). -/
def emits (es : List PinEvent) (s : State) : State := es.foldl (fun s e => emit e s) s

/-- The level of the data line as the block reads it: `SDA_I = SDA_LINE = SDA_O & RX_SDA` (R21). -/
def sdaIn (s : State) (rxSda : Level) : Level := s.sda && rxSda

/-- The receiver's drive at the `k`-th coming SAMPLE (from 0): as given, else a free value (R103, U9; log 6). -/
def comingLevel (s : State) (k : Nat) : Level :=
  match s.rxIn[k]? with
  | some a => a
  | none => Config.freeLevel (s.free + (k - s.rxIn.length))

/-- One level is used up. -/
def dropLevel (s : State) : State :=
  match s.rxIn with
  | _ :: rest => { s with rxIn := rest }
  | [] => { s with free := s.free + 1 }

/-- `SAMPLE(a)` with the receiver driving `rxSda` (R103): `a = SDA_I`, `ACKV <- a`. -/
def sampleAt (rxSda : Level) (s : State) : State :=
  let a := sdaIn s rxSda
  { emit (.sample a) s with ackv := a }

/-- `BOTH1` (R100), with what it tells the receiver (log 14). -/
def raiseBoth (s : State) : State :=
  { emit .both1 s with rx := s.rx.onRaise s.scl s.sda }

/-- The last event of the start condition (R104): `PHASE <- 1`. -/
def endStart (s : State) : State :=
  { emit .dat0 s with phase := true, rx := s.rx.onStart }

/-- The start condition `B w d` (R104). -/
def startCondition (s : State) : State := endStart (emit .delay (raiseBoth s))

/-- The last event of the stop condition (R105): `PHASE <- 0`. -/
def endStop (s : State) : State :=
  { emit .dat1 s with phase := false, rx := s.rx.onStop }

/-- The stop condition `d w C w D` (R105). -/
def stopCondition (s : State) : State := endStop (emits [.dat0, .delay, .clk1, .delay] s)

/-- Load the serializer with a byte (R108): bit 0 goes first (R54). -/
def loadByte (b : Byte) (s : State) : State := { s with shift := b, bitIdx := 0 }

/-- `SHIFT <- SHIFT >> 1`, `BIT_IDX <- BIT_IDX + 1` (R108, R111). -/
def shiftBit (s : State) : State := { s with shift := s.shift >>> 1, bitIdx := s.bitIdx + 1 }

/-- `BITCELL(SHIFT[0])`, then the shift (R106, R108). -/
def bitCell (s : State) : State :=
  shiftBit (emits [.clk0, .delay, datEvent (s.shift.getLsbD 0), .delay, .clk1, .delay] s)

/-- `n` bit cells in a row. -/
def bitCells : Nat → State → State
  | 0, s => s
  | n + 1, s => bitCells n (bitCell s)

/-- `ACKCELL` (R107), up to its last event: the level read is in `ACKV`. -/
def ackCell (s : State) : State :=
  let s1 := emits [.clk0, .dat1, .delay, .clk1, .delay, .delay] s
  let s2 := dropLevel (sampleAt (comingLevel s1 0) s1)
  let s3 := if s2.ackv then s2 else emit .dat0 s2
  emits [.delay, .clk0, .delay] s3

/-- The events of `T_BYTE(b)` (R108), with what the byte tells the receiver (log 14). -/
def sendByte (b : Byte) (s : State) : State :=
  let t := ackCell (bitCells 8 (loadByte b s))
  { t with rx := t.rx.onByte b t.ackv }

/-- The one error, `AcknowledgmentFailure` (R210, R212): no state is saved, no control is transferred; the frame's
error accumulator is set and the rest of the frame is skipped by the caller. There is no return (R216). -/
def ackFailure (s : State) : State := { s with err := true }

/-- The bytes of a frame from index `k` on (R140, R150): in order, until one is not acknowledged. -/
def sendBytes : Nat → List Byte → State → State
  | _, [], s => s
  | k, b :: bs, s =>
    let t := sendByte b { s with byteIdx := BitVec.ofNat 3 k }
    if t.ackv then ackFailure t else sendBytes (k + 1) bs t

/-- What acceptance sets up for a frame of `n` bytes (R140, R29): `ERR <- 0`. -/
def beginFrame (n : Nat) (s : State) : State :=
  { s with err := false, nbytes := BitVec.ofNat 3 n, byteIdx := 0 }

/-- `FRAME(bs)` (R140): one start condition, the bytes, one stop condition always; the result is `ERR`. -/
def frame (bs : List Byte) (s : State) : State :=
  stopCondition (sendBytes 0 bs (startCondition (beginFrame bs.length s)))

/-- `XBUF[0..d-1] <- bs`, `d` the length of the list; the entries above keep their old value (R25). -/
def loadXbuf (bs : List Byte) (s : State) : State :=
  { s with xbuf := #v[bs.getD 0 s.xbuf[0], bs.getD 1 s.xbuf[1], bs.getD 2 s.xbuf[2],
      bs.getD 3 s.xbuf[3], bs.getD 4 s.xbuf[4], bs.getD 5 s.xbuf[5]] }

/-- `SEGBUF[0..DIGITS-1]` (R145). -/
def rawBytes (s : State) : List Byte := s.segbuf.toList.take s.digits.toNat

/-- The encoded text (R186): the walk over `TXT[0..n-1]`, one byte per position. -/
def textBytes (n : Byte) (s : State) : List Byte :=
  textWalk segOf s.txt (textLength n) (min s.digits.toNat maxDigits) 0

/-- `DIGITS` zero bytes (R146). -/
def zeroBytes (s : State) : List Byte := List.replicate (min s.digits.toNat maxDigits) 0

/-- The bytes of a burst frame (R80, format `FB`): the address command, then `XBUF[0..DIGITS-1]`. -/
def burstBytes (s : State) : List Byte := addrCmd :: s.xbuf.toList.take s.digits.toNat

/-- A burst operation (R145, R146, R186): the bytes into `XBUF[0..d-1]` at acceptance, then the frame from `XBUF`. -/
def burst (bs : List Byte) (s : State) : State :=
  frame (burstBytes (loadXbuf bs s)) (loadXbuf bs s)

/-- The buffer port (R51): `SEGBUF` when `sel` is 0, `TXT` when it is 1; out of range nothing changes (R52). -/
def bufWrite (sel : Bool) (i : BitVec 4) (b : Byte) (s : State) : State :=
  if sel then { s with txt := s.txt.setIfInBounds i.toNat b }
  else { s with segbuf := s.segbuf.setIfInBounds i.toNat b }

end Sys2Proof.Machine
end

