-- ==== Sys2Proof/Machine/Flags.lean ====
section
/-! DEFINITION. The status of an operation: acceptance and end (41_sequencer.md R148; 10_state.md R26, R27, R32), and
the atomic operation as the host sees it (00_scope.md R11). -/

namespace Sys2Proof.Machine

/-- Acceptance (R148): `cmd_op` and `ARG` are latched, `BUSY <- 1`. -/
def latch (op : BitVec 4) (arg : Byte) (s : State) : State :=
  { s with op := op, arg := arg, busy := true, stepIdx := 0 }

/-- The end of an operation (R148, R245): `RESULT` is written, `done` pulses, `BUSY <- 0`, `STAGE` is idle. -/
def finish (r : Bool) (s : State) : State :=
  { s with result := r, busy := false, done := true, stage := .idle, stepIdx := 0 }

/-- A host command run to its end (R11, R148): accepted only while `BUSY = 0`, else it has no effect (log 2).
`body` performs the operation's events, `res` is its result. -/
def command (op : BitVec 4) (arg : Byte) (body : State → State) (res : State → Bool) (s : State) :
    Host.Outcome State Fault Refusal :=
  if s.busy then .next s
  else
    let t := body (latch op arg s)
    .next (finish (res t) t)

/-- The result of an operation that cannot fail (R85, R211). -/
def noError (_ : State) : Bool := false

/-- The result of a frame operation (R85, R140): `ERR`. -/
def frameResult (s : State) : Bool := s.err

/-- The result of `T_BYTE` (R85, R108): the sampled level. -/
def ackResult (s : State) : Bool := s.ackv

end Sys2Proof.Machine
end

