-- ==== Sys2Proof/Machine/Buffers.lean ====
section
/-! DEFINITION. The buffer writes SEG and CHR (20_memory.md R51, R52). They are done at any time, also while
`BUSY = 1`, and report nothing: no status changes. -/

namespace Sys2Proof.Machine

/-- `SEG i,b` (R51): `SEGBUF[i] <- b` when `i <= 5`, else nothing (R52). -/
def execSeg (i : BitVec 4) (b : Byte) (s : State) : Host.Outcome State Fault Refusal :=
  .next (bufWrite false i b s)

/-- `CHR i,b` (R51): `TXT[i] <- b` when `i <= 11`, else nothing (R52). -/
def execChr (i : BitVec 4) (b : Byte) (s : State) : Host.Outcome State Fault Refusal :=
  .next (bufWrite true i b s)

end Sys2Proof.Machine
end

