-- ==== Sys2Proof/Machine/Encoder.lean ====
section
/-! DEFINITION. WRITE_STR and the look-up of the encoder table, one meaning per row (42_encoder.md). -/

namespace Sys2Proof.Machine

/-- `WRITE_STR` loads the encoded text and sends the burst (R186). -/
def textBurst (n : Byte) (s : State) : State := burst (textBytes n s) s

/-- `WRITE_STR` (R186): the encoded text into `XBUF[0..d-1]` at acceptance, then the burst frame. -/
def execWriteStr (n : Byte) (s : State) : Host.Outcome State Fault Refusal :=
  command opWriteStr n (textBurst n) frameResult s

/-- One look-up in `SEG_ROM` (R180): it has no side effect on the block (R56); the byte read is kept in the model's own
field `segOut` (log 13). -/
def lookUp (c : Byte) (s : State) : Host.Outcome State Fault Refusal :=
  .next { s with segOut := segOf c }

/-- The entry of code `0x2D` (R181). -/
def execSegromMinus (s : State) : Host.Outcome State Fault Refusal := lookUp 0x2D s

/-- The entry of code `0x31` (R181). -/
def execSegrom1 (s : State) : Host.Outcome State Fault Refusal := lookUp 0x31 s

/-- The entry of code `0x32` (R181). -/
def execSegrom2 (s : State) : Host.Outcome State Fault Refusal := lookUp 0x32 s

/-- The entry of code `0x33` (R181). -/
def execSegrom3 (s : State) : Host.Outcome State Fault Refusal := lookUp 0x33 s

/-- The entry of code `0x34` (R181). -/
def execSegrom4 (s : State) : Host.Outcome State Fault Refusal := lookUp 0x34 s

/-- The entry of code `0x35` (R181). -/
def execSegrom5 (s : State) : Host.Outcome State Fault Refusal := lookUp 0x35 s

/-- The entry of code `0x20` (R181). -/
def execSegromSpace (s : State) : Host.Outcome State Fault Refusal := lookUp 0x20 s

/-- The entry of code `0x30` (R182). -/
def execSegrom0 (s : State) : Host.Outcome State Fault Refusal := lookUp 0x30 s

/-- The entry of code `0x36` (R182). -/
def execSegrom6 (s : State) : Host.Outcome State Fault Refusal := lookUp 0x36 s

/-- The entry of code `0x37` (R182). -/
def execSegrom7 (s : State) : Host.Outcome State Fault Refusal := lookUp 0x37 s

/-- The entry of code `0x38` (R182). -/
def execSegrom8 (s : State) : Host.Outcome State Fault Refusal := lookUp 0x38 s

/-- The entry of code `0x39` (R182). -/
def execSegrom9 (s : State) : Host.Outcome State Fault Refusal := lookUp 0x39 s

/-- The entry of the letter A in either case (R183). -/
def execSegromA (lower : Bool) (s : State) : Host.Outcome State Fault Refusal := lookUp (letterCode 0x41 lower) s

/-- The entry of the letter B in either case (R183). -/
def execSegromB (lower : Bool) (s : State) : Host.Outcome State Fault Refusal := lookUp (letterCode 0x42 lower) s

/-- The entry of the letter C in either case (R183). -/
def execSegromC (lower : Bool) (s : State) : Host.Outcome State Fault Refusal := lookUp (letterCode 0x43 lower) s

/-- The entry of the letter D in either case (R183). -/
def execSegromD (lower : Bool) (s : State) : Host.Outcome State Fault Refusal := lookUp (letterCode 0x44 lower) s

/-- The entry of the letter E in either case (R183). -/
def execSegromE (lower : Bool) (s : State) : Host.Outcome State Fault Refusal := lookUp (letterCode 0x45 lower) s

/-- The entry of the letter F in either case (R183). -/
def execSegromF (lower : Bool) (s : State) : Host.Outcome State Fault Refusal := lookUp (letterCode 0x46 lower) s

/-- The entry of the letter G in either case (R183). -/
def execSegromG (lower : Bool) (s : State) : Host.Outcome State Fault Refusal := lookUp (letterCode 0x47 lower) s

/-- The entry of the letter H in either case (R183). -/
def execSegromH (lower : Bool) (s : State) : Host.Outcome State Fault Refusal := lookUp (letterCode 0x48 lower) s

/-- The entry of the letter I in either case (R183). -/
def execSegromI (lower : Bool) (s : State) : Host.Outcome State Fault Refusal := lookUp (letterCode 0x49 lower) s

/-- The entry of the letter J in either case (R183). -/
def execSegromJ (lower : Bool) (s : State) : Host.Outcome State Fault Refusal := lookUp (letterCode 0x4A lower) s

/-- The entry of the letter L in either case (R183). -/
def execSegromL (lower : Bool) (s : State) : Host.Outcome State Fault Refusal := lookUp (letterCode 0x4C lower) s

/-- The entry of the letter N in either case (R183). -/
def execSegromN (lower : Bool) (s : State) : Host.Outcome State Fault Refusal := lookUp (letterCode 0x4E lower) s

/-- The entry of the letter O in either case (R183). -/
def execSegromO (lower : Bool) (s : State) : Host.Outcome State Fault Refusal := lookUp (letterCode 0x4F lower) s

/-- The entry of the letter P in either case (R183). -/
def execSegromP (lower : Bool) (s : State) : Host.Outcome State Fault Refusal := lookUp (letterCode 0x50 lower) s

/-- The entry of the letter Q in either case (R183). -/
def execSegromQ (lower : Bool) (s : State) : Host.Outcome State Fault Refusal := lookUp (letterCode 0x51 lower) s

/-- The entry of the letter R in either case (R183). -/
def execSegromR (lower : Bool) (s : State) : Host.Outcome State Fault Refusal := lookUp (letterCode 0x52 lower) s

/-- The entry of the letter S in either case (R183). -/
def execSegromS (lower : Bool) (s : State) : Host.Outcome State Fault Refusal := lookUp (letterCode 0x53 lower) s

/-- The entry of the letter T in either case (R183). -/
def execSegromT (lower : Bool) (s : State) : Host.Outcome State Fault Refusal := lookUp (letterCode 0x54 lower) s

/-- The entry of the letter U in either case (R183). -/
def execSegromU (lower : Bool) (s : State) : Host.Outcome State Fault Refusal := lookUp (letterCode 0x55 lower) s

/-- The entry of the letter Y in either case (R183). -/
def execSegromY (lower : Bool) (s : State) : Host.Outcome State Fault Refusal := lookUp (letterCode 0x59 lower) s

/-- Any other code reads `0x00` (R184). -/
def execSegromOther (c : Byte) (s : State) : Host.Outcome State Fault Refusal := lookUp c s

end Sys2Proof.Machine
end

