-- ==== Sys2Proof/Machine/Reserved.lean ====
section
/-! DEFINITION. The reserved command codes (30_encoding.md R73): the block accepts the word, performs no pin event,
changes no state element except `RESULT <- 1`, and ends. That 1 is not an acknowledgment failure (60_exceptions.md
R219). Log 7. -/

namespace Sys2Proof.Machine

/-- `RESULT <- 1` and nothing else (R73). -/
def reservedResult (_ : State) : Bool := true

/-- No event, no change (R73). -/
def noEvents (s : State) : State := s

/-- Reserved code `0x0` (R73). -/
def execReserved0 (arg : Byte) (s : State) : Host.Outcome State Fault Refusal :=
  command 0x0 arg noEvents reservedResult s

/-- Reserved code `0xA` (R73). -/
def execReservedA (arg : Byte) (s : State) : Host.Outcome State Fault Refusal :=
  command 0xA arg noEvents reservedResult s

/-- Reserved code `0xB` (R73). -/
def execReservedB (arg : Byte) (s : State) : Host.Outcome State Fault Refusal :=
  command 0xB arg noEvents reservedResult s

/-- Reserved code `0xC` (R73). -/
def execReservedC (arg : Byte) (s : State) : Host.Outcome State Fault Refusal :=
  command 0xC arg noEvents reservedResult s

/-- Reserved code `0xD` (R73). -/
def execReservedD (arg : Byte) (s : State) : Host.Outcome State Fault Refusal :=
  command 0xD arg noEvents reservedResult s

/-- Reserved code `0xE` (R73). -/
def execReservedE (arg : Byte) (s : State) : Host.Outcome State Fault Refusal :=
  command 0xE arg noEvents reservedResult s

/-- Reserved code `0xF` (R73). -/
def execReservedF (arg : Byte) (s : State) : Host.Outcome State Fault Refusal :=
  command 0xF arg noEvents reservedResult s

end Sys2Proof.Machine
end

