-- ==== Sys2Proof/Machine/Sequencer.lean ====
section
/-! DEFINITION. The sequencer operations INIT, SET_BRIGHT, SET_DIGITS, WRITE_RAW, CLEAR (41_sequencer.md). -/

namespace Sys2Proof.Machine

/-- The events of `INIT` (R142). -/
def initEvents (s : State) : State := frame [dataCmd] (raiseBoth s)

/-- The effect of `SET_DIGITS` (R144). -/
def setDigits (count : Byte) (s : State) : State := { s with digits := clampDigits count }

/-- `WRITE_RAW` loads `SEGBUF[0..d-1]` and sends the burst (R145). -/
def rawBurst (s : State) : State := burst (rawBytes s) s

/-- `CLEAR` loads zero bytes and sends the burst (R146). -/
def zeroBurst (s : State) : State := burst (zeroBytes s) s

/-- `INIT` (R142): both lines high, then one frame with the data command alone. -/
def execInit (arg : Byte) (s : State) : Host.Outcome State Fault Refusal :=
  command opInit arg initEvents frameResult s

/-- `SET_BRIGHT` (R143): one frame with the display-control byte of the clamped level. Nothing keeps the level (R30). -/
def execSetBright (level : Byte) (s : State) : Host.Outcome State Fault Refusal :=
  command opSetBright level (frame [brightByte level]) frameResult s

/-- `SET_DIGITS` (R144): no pin event, cannot fail. -/
def execSetDigits (count : Byte) (s : State) : Host.Outcome State Fault Refusal :=
  command opSetDigits count (setDigits count) noError s

/-- `WRITE_RAW` (R145): `XBUF[0..d-1] <- SEGBUF[0..d-1]` at acceptance, then the burst frame. -/
def execWriteRaw (arg : Byte) (s : State) : Host.Outcome State Fault Refusal :=
  command opWriteRaw arg rawBurst frameResult s

/-- `CLEAR` (R146): `XBUF[0..d-1] <- 0` at acceptance, then the burst frame; `SEGBUF` keeps its bytes. -/
def execClear (arg : Byte) (s : State) : Host.Outcome State Fault Refusal :=
  command opClear arg zeroBurst frameResult s

end Sys2Proof.Machine
end

