-- ==== Sys2Proof/Machine/Transport.lean ====
section
/-! DEFINITION. The transport operations T_START, T_STOP, T_BYTE (40_transport.md). They check nothing (R109). -/

namespace Sys2Proof.Machine

/-- `T_START` (R104): `B w d`, result 0. -/
def execTStart (arg : Byte) (s : State) : Host.Outcome State Fault Refusal :=
  command opTStart arg startCondition noError s

/-- `T_STOP` (R105): `d w C w D`, result 0. -/
def execTStop (arg : Byte) (s : State) : Host.Outcome State Fault Refusal :=
  command opTStop arg stopCondition noError s

/-- `T_BYTE` (R108): eight bit cells and the acknowledgment cell, result the sampled level. -/
def execTByte (b : Byte) (s : State) : Host.Outcome State Fault Refusal :=
  command opTByte b (sendByte b) ackResult s

end Sys2Proof.Machine
end

