-- ==== Sys2Proof/Machine/WireCommand.lean ====
section
/-! DEFINITION. The wire command bytes as instructions (30_encoding.md R74 to R77). A wire command byte is "sent like any
other byte": the byte sender performs the events of a byte (R108) and samples the acknowledgment; inside the block it is
no host command, so `RESULT`, `BUSY` and `done` are not touched (41_sequencer.md, opening paragraph). The receiver's view
takes the byte as R75 to R77 say. Log 12. -/

namespace Sys2Proof.Machine

/-- The byte sender is free while `BUSY = 0`; while an operation runs it sends that operation's bytes (R148, log 12). -/
def wireByte (b : Byte) (s : State) : Host.Outcome State Fault Refusal :=
  if s.busy then .next s else .next (sendByte b s)

/-- `W_DATA_CMD` (R75): set data-write mode, auto-increment address. -/
def execWDataCmd (s : State) : Host.Outcome State Fault Refusal := wireByte dataCmd s

/-- `W_ADDR_CMD` (R76): set starting address to 0. -/
def execWAddrCmd (s : State) : Host.Outcome State Fault Refusal := wireByte addrCmd s

/-- `W_DISP_OFF` (R77): display control, off. -/
def execWDispOff (s : State) : Host.Outcome State Fault Refusal := wireByte dispOff s

/-- `W_DISP_ON` (R77): display control, on, with brightness sub-field `bbb`. -/
def execWDispOn (bbb : BitVec 3) (s : State) : Host.Outcome State Fault Refusal := wireByte (dispOn bbb) s

end Sys2Proof.Machine
end

