-- ==== Sys2Proof/Machine/Dispatch.lean ====
section
/-! DEFINITION. One arm per instruction. -/

namespace Sys2Proof.Machine

def exec (i : Instr) (s : State) : Host.Outcome State Fault Refusal :=
  match i with
  | .tStart arg => Sys2Proof.Machine.execTStart arg s
  | .tStop arg => Sys2Proof.Machine.execTStop arg s
  | .tByte b => Sys2Proof.Machine.execTByte b s
  | .init arg => Sys2Proof.Machine.execInit arg s
  | .setBright level => Sys2Proof.Machine.execSetBright level s
  | .setDigits count => Sys2Proof.Machine.execSetDigits count s
  | .writeRaw arg => Sys2Proof.Machine.execWriteRaw arg s
  | .writeStr n => Sys2Proof.Machine.execWriteStr n s
  | .clear arg => Sys2Proof.Machine.execClear arg s
  | .reserved0 arg => Sys2Proof.Machine.execReserved0 arg s
  | .reservedA arg => Sys2Proof.Machine.execReservedA arg s
  | .reservedB arg => Sys2Proof.Machine.execReservedB arg s
  | .reservedC arg => Sys2Proof.Machine.execReservedC arg s
  | .reservedD arg => Sys2Proof.Machine.execReservedD arg s
  | .reservedE arg => Sys2Proof.Machine.execReservedE arg s
  | .reservedF arg => Sys2Proof.Machine.execReservedF arg s
  | .seg i0 b => Sys2Proof.Machine.execSeg i0 b s
  | .chr i0 b => Sys2Proof.Machine.execChr i0 b s
  | .wDataCmd => Sys2Proof.Machine.execWDataCmd s
  | .wAddrCmd => Sys2Proof.Machine.execWAddrCmd s
  | .wDispOff => Sys2Proof.Machine.execWDispOff s
  | .wDispOn bbb => Sys2Proof.Machine.execWDispOn bbb s
  | .segromMinus => Sys2Proof.Machine.execSegromMinus s
  | .segrom1 => Sys2Proof.Machine.execSegrom1 s
  | .segrom2 => Sys2Proof.Machine.execSegrom2 s
  | .segrom3 => Sys2Proof.Machine.execSegrom3 s
  | .segrom4 => Sys2Proof.Machine.execSegrom4 s
  | .segrom5 => Sys2Proof.Machine.execSegrom5 s
  | .segromSpace => Sys2Proof.Machine.execSegromSpace s
  | .segrom0 => Sys2Proof.Machine.execSegrom0 s
  | .segrom6 => Sys2Proof.Machine.execSegrom6 s
  | .segrom7 => Sys2Proof.Machine.execSegrom7 s
  | .segrom8 => Sys2Proof.Machine.execSegrom8 s
  | .segrom9 => Sys2Proof.Machine.execSegrom9 s
  | .segromA lower => Sys2Proof.Machine.execSegromA lower s
  | .segromB lower => Sys2Proof.Machine.execSegromB lower s
  | .segromC lower => Sys2Proof.Machine.execSegromC lower s
  | .segromD lower => Sys2Proof.Machine.execSegromD lower s
  | .segromE lower => Sys2Proof.Machine.execSegromE lower s
  | .segromF lower => Sys2Proof.Machine.execSegromF lower s
  | .segromG lower => Sys2Proof.Machine.execSegromG lower s
  | .segromH lower => Sys2Proof.Machine.execSegromH lower s
  | .segromI lower => Sys2Proof.Machine.execSegromI lower s
  | .segromJ lower => Sys2Proof.Machine.execSegromJ lower s
  | .segromL lower => Sys2Proof.Machine.execSegromL lower s
  | .segromN lower => Sys2Proof.Machine.execSegromN lower s
  | .segromO lower => Sys2Proof.Machine.execSegromO lower s
  | .segromP lower => Sys2Proof.Machine.execSegromP lower s
  | .segromQ lower => Sys2Proof.Machine.execSegromQ lower s
  | .segromR lower => Sys2Proof.Machine.execSegromR lower s
  | .segromS lower => Sys2Proof.Machine.execSegromS lower s
  | .segromT lower => Sys2Proof.Machine.execSegromT lower s
  | .segromU lower => Sys2Proof.Machine.execSegromU lower s
  | .segromY lower => Sys2Proof.Machine.execSegromY lower s
  | .segromOther c => Sys2Proof.Machine.execSegromOther c s

end Sys2Proof.Machine
end

