-- ==== Sys2Proof/Machine/Events.lean ====
section
/-! DEFINITION. The same operations one pin event per step (10_state.md R29; 40_transport.md R111; 41_sequencer.md R148,
R150): acceptance sets the sequencer position, each step performs the next event, the last event ends the operation.
The operations of Transport, Sequencer, Encoder and Reserved are these runs taken as one step (00_scope.md R11). -/

namespace Sys2Proof.Machine

/-- `STEP` moves on to the next event of the current symbol (R111). -/
def advance (s : State) : State := { s with stepIdx := s.stepIdx + 1 }

/-- Enter a stage at its first event. -/
def enter (g : Stage) (s : State) : State := { s with stage := g, stepIdx := 0 }

/-- Acceptance of a command word (R148): latch, load `XBUF` where the operation's rule says so, and stand before the
first event. An operation without events stands in stage 0 and ends in its next step (R73; log 9). -/
def accept (op : BitVec 4) (arg : Byte) (s : State) : State :=
  let t := latch op arg s
  match op with
  | 0x1#4 => enter .start t
  | 0x2#4 => enter .stop t
  | 0x3#4 => enter .byte (loadByte arg t)
  | 0x4#4 => enter .pullHigh (beginFrame 1 t)
  | 0x5#4 => enter .start (beginFrame 1 t)
  | 0x7#4 =>
    let u := loadXbuf (rawBytes t) t
    enter .start (beginFrame (burstBytes u).length u)
  | 0x8#4 =>
    let u := loadXbuf (textBytes arg t) t
    enter .start (beginFrame (burstBytes u).length u)
  | 0x9#4 =>
    let u := loadXbuf (zeroBytes t) t
    enter .start (beginFrame (burstBytes u).length u)
  | _ => enter .idle t

/-- Byte `k` of the running frame (R29, `BYTE_IDX`): 0 is the wire command byte, `k + 1` is position `k`. -/
def frameByte (s : State) : Nat → Option Byte
  | 0 => commandByte s.op s.arg
  | k + 1 => if (commandByte s.op s.arg).isSome then s.xbuf[k]? else none

/-- The byte being sent: the operand of `T_BYTE`, or the frame's byte `BYTE_IDX`. -/
def currentByte (s : State) : Option Byte :=
  if s.op = opTByte then some s.arg else frameByte s s.byteIdx.toNat

/-- Load frame byte `k` and stand before its first event; `none` when the operation has no such byte. -/
def startFrameByte (k : Nat) (s : State) : Option State :=
  match frameByte s k with
  | some b => some (enter .byte (loadByte b { s with byteIdx := BitVec.ofNat 3 k }))
  | none => none

/-- An operation without events ends: `SET_DIGITS` (R144, log 9) or a reserved code (R73). -/
def tickSilent (s : State) : Option State :=
  if s.op = opSetDigits then some (finish false { s with digits := clampDigits s.arg })
  else if isReservedOp s.op then some (finish true s)
  else none

/-- The start condition's events (R111): 0 `BOTH1`, 1 `DELAY`, 2 `DAT0`. -/
def tickStart (s : State) : Option State :=
  match s.stepIdx with
  | 0#4 => some (advance (raiseBoth s))
  | 1#4 => some (advance (emit .delay s))
  | 2#4 =>
    let t := endStart s
    if s.op = opTStart then some (finish false t) else startFrameByte 0 t
  | _ => none

/-- A bit cell's events (R111): 0 `CLK0`, 1 `DELAY`, 2 `DAT(SHIFT[0])`, 3 `DELAY`, 4 `CLK1`, 5 `DELAY` and the shift. -/
def tickBit (s : State) : Option State :=
  match s.stepIdx with
  | 0#4 => some (advance (emit .clk0 s))
  | 1#4 => some (advance (emit .delay s))
  | 2#4 => some (advance (emit (datEvent (s.shift.getLsbD 0)) s))
  | 3#4 => some (advance (emit .delay s))
  | 4#4 => some (advance (emit .clk1 s))
  | 5#4 => some (enter .byte (shiftBit (emit .delay s)))
  | _ => none

/-- After the last event of a byte (R150): end `T_BYTE`; else on to the stop condition after a failure or after the last
byte, or on to the next byte. What the byte tells the receiver rests on the premises A1 to A3 of R114 (log 28). -/
def byteDone (s : State) : Option State :=
  match currentByte s with
  | none => none
  | some b =>
    let t := { s with rx := s.rx.onByte b s.ackv }
    if t.op = opTByte then some (finish (ackResult t) t)
    else if t.ackv then some (enter .stop (ackFailure t))
    else if t.byteIdx + 1 = t.nbytes then some (enter .stop t)
    else startFrameByte (t.byteIdx.toNat + 1) t

/-- The acknowledgment cell's events (R111); event 7 is skipped when `ACKV = 1`. A receiver that has let go before event 7
sees a START there (R115, R237); the receiver's view takes A3 of R114 as a premise and does not look: DESIGN CHOICE,
log 28. -/
def tickAck (rxSda : Level) (s : State) : Option State :=
  match s.stepIdx with
  | 0#4 => some (advance (emit .clk0 s))
  | 1#4 => some (advance (emit .dat1 s))
  | 2#4 => some (advance (emit .delay s))
  | 3#4 => some (advance (emit .clk1 s))
  | 4#4 => some (advance (emit .delay s))
  | 5#4 => some (advance (emit .delay s))
  | 6#4 =>
    let t := sampleAt rxSda s
    some (if t.ackv then advance (advance t) else advance t)
  | 7#4 => if s.ackv then none else some (advance (emit .dat0 s))
  | 8#4 => some (advance (emit .delay s))
  | 9#4 => some (advance (emit .clk0 s))
  | 10#4 => byteDone (emit .delay s)
  | _ => none

/-- The stop condition's events (R111): 0 `DAT0`, 1 `DELAY`, 2 `CLK1`, 3 `DELAY`, 4 `DAT1`, which ends the operation
with result 0 for `T_STOP` and `ERR` for a frame. -/
def tickStop (s : State) : Option State :=
  match s.stepIdx with
  | 0#4 => some (advance (emit .dat0 s))
  | 1#4 => some (advance (emit .delay s))
  | 2#4 => some (advance (emit .clk1 s))
  | 3#4 => some (advance (emit .delay s))
  | 4#4 =>
    let t := endStop s
    if s.op = opTStop then some (finish false t)
    else if (commandByte s.op s.arg).isSome then some (finish (frameResult t) t)
    else none
  | _ => none

/-- The next event of the running operation, the receiver driving `rxSda`; `none` in a position that R29 and R111 do
not list (log 20). -/
def tick (rxSda : Level) (s : State) : Option State :=
  match s.stage with
  | .idle => tickSilent s
  | .pullHigh => if s.op = opInit then some (enter .start (raiseBoth s)) else none
  | .start => tickStart s
  | .byte =>
    if s.bitIdx = 8 then tickAck rxSda s
    else if s.bitIdx < 8 then tickBit s
    else none
  | .stop => tickStop s

/-- The next event is a SAMPLE. -/
def atSample (s : State) : Bool :=
  s.busy && s.stage = .byte && s.bitIdx = 8 && s.stepIdx = 6

/-- The next event, a SAMPLE taking its level from the receiver's inputs (log 6). -/
def tickInput (s : State) : Option State :=
  if atSample s then (tick (comingLevel s 0) s).map dropLevel else tick true s

/-- `n` events in a row, stopping at the end of the operation. -/
def runEvents : Nat → State → Option State
  | 0, s => some s
  | n + 1, s =>
    if s.busy then
      match tickInput s with
      | some t => runEvents n t
      | none => none
    else some s

end Sys2Proof.Machine
end

