-- ==== Sys2Proof/Machine/Ports.lean ====
section
/-! DEFINITION. The host interface (10_state.md R33): the output ports, one clock cycle, reset (70_reset_and_hazards.md
R230, R231), and the fetch of the host's next action. -/

namespace Sys2Proof.Machine

/-- The output ports (R33). -/
structure PortOut where
  cmdReady : Bool
  xbufRdata : Byte
  busy : Bool
  done : Bool
  result : Bool
  phase : Bool
  digits : BitVec 3
  sclO : Level
  sdaO : Level
deriving DecidableEq, Repr

/-- `XBUF[xbuf_addr]`, 0 when `xbuf_addr > 5` (R33). -/
def xbufRead (addr : BitVec 3) (s : State) : Byte := (s.xbuf[addr.toNat]?).getD 0

/-- The output ports in a state, for a read address (R33): `cmd_ready = not BUSY`. -/
def outputs (xbufAddr : BitVec 3) (s : State) : PortOut :=
  { cmdReady := !s.busy
    xbufRdata := xbufRead xbufAddr s
    busy := s.busy
    done := s.done
    result := s.result
    phase := s.phase
    digits := s.digits
    sclO := s.scl
    sdaO := s.sda }

/-- What is known of the receiver after a reset (R231, D23): nothing, and not where it stands either when an operation was
running, a frame was open, or the lines were not both high. Else the reset moves no line, and a receiver outside a frame
is still outside one: DESIGN CHOICE, log 26. -/
def resetReceiver (s : State) : Receiver :=
  if !s.busy && s.scl && s.sda && s.rx.place = .outside then Receiver.unknownAt .outside else Receiver.forget

/-- Reset (R230, R231): the block takes the values of R36 at once, without a stop condition. The inputs, the trace and the
last look-up are not the block's and stay. Log 22. -/
def blockReset (s : State) : State :=
  { State.powerOn s.free with
    rx := resetReceiver s
    segOut := s.segOut
    trace := s.trace
    host := s.host
    rxIn := s.rxIn }

/-- `done` is 1 for one cycle (R33): it falls in the next step. -/
def clearDone (s : State) : State := { s with done := false }

/-- One clock cycle with given input levels (R33). Reset goes before all else (R230); the buffer port writes at once,
also while `BUSY = 1` (R51; log 8); a running operation performs its next event; else a valid command word is accepted
(R148). A word presented while `BUSY = 1` has no effect. R33 and R240 leave open how many cycles an event takes; here one
cycle performs exactly one event, a `DELAY` too: DESIGN CHOICE, log 29. -/
def clockCycle (p : PortIn) (s : State) : Host.Outcome State Fault Refusal :=
  if !p.rstN then .next (blockReset s)
  else
    let t := if p.bufWe then bufWrite p.bufSel p.bufAddr p.bufWdata (clearDone s) else clearDone s
    if t.busy then
      match tick p.rxSda t with
      | some u => .next u
      | none => .fault .illegalPosition
    else if p.cmdValid then .next (accept p.cmdOp p.cmdArg t)
    else .next t

/-- The running operation performs its next event while the host waits (R148). -/
def continueOperation (s : State) : Host.Outcome State Fault Refusal :=
  match tickInput (clearDone s) with
  | some t => .next t
  | none => .fault .illegalPosition

/-- The state with the host's first action taken from the queue; `done` falls. -/
def takeAction (rest : List HostAct) (s : State) : State := { clearDone s with host := rest }

/-- The state in which the host's next action is the given word, and the block is between operations, so that it is
taken in the very next step (log 17). -/
def presentWord (w : FetchWord) (s : State) : State :=
  { s with host := .word w :: s.host, busy := false, stage := .idle }

end Sys2Proof.Machine
end

