-- ==== Sys2Proof/Machine/Step.lean ====
section
/-! DEFINITION. The step: the host's next action, or the next event of a running operation. -/

namespace Sys2Proof.Machine

/-- One step. A clock cycle of the host is taken whatever runs. Otherwise a running operation goes on (R148); between
operations the next word is decoded and executed, and with no action the block waits (R230; log 18). -/
def step (s : State) : Host.Outcome State Fault Refusal :=
  match s.host with
  | .clk p :: rest => clockCycle p { s with host := rest }
  | [] => if s.busy then continueOperation s else .next (clearDone s)
  | .word w :: rest =>
    if s.busy then continueOperation s
    else
      match decode w with
      | .ok i => exec i (takeAction rest s)
      | .error e => .refused (.notAnInstruction e)

/-- `s` with a table word standing where the step takes the host's next action (log 16, 17). -/
def State.withFetchWord (s : State) (nbits w : Nat) : State :=
  match tableWord nbits w with
  | some fw => presentWord fw s
  | none => s

end Sys2Proof.Machine
end

