-- ==== Sys2Proof/Machine/Script.lean ====
section
/-! DEFINITION. Command scripts (30_encoding.md R83) and the pseudo-operations RAW and STR (R84) as lists of host actions. -/

namespace Sys2Proof.Machine

/-- A script line: the instruction's word is presented and the host waits for its end (R83). -/
def line (i : Instr) : HostAct := .word (encode i)

/-- `SEG k, b0; SEG k+1, b1; …` -/
def segLines : Nat → List Byte → List HostAct
  | _, [] => []
  | k, b :: bs => line (.seg (BitVec.ofNat 4 k) b) :: segLines (k + 1) bs

/-- `CHR k, c0; CHR k+1, c1; …` -/
def chrLines : Nat → List Byte → List HostAct
  | _, [] => []
  | k, c :: cs => line (.chr (BitVec.ofNat 4 k) c) :: chrLines (k + 1) cs

/-- `RAW b0, b1, …, bk` (R84): one line per byte, then `WRITE_RAW`. The lines with index 6 or more change nothing (R52);
an index has 4 bits, so no line can name a byte past the sixteenth. -/
def rawScript (bs : List Byte) : List HostAct := segLines 0 (bs.take 16) ++ [line (.writeRaw 0)]

/-- `STR "text"` (R84): the characters with index below 12, then the length, read as 12 when it is larger (R72). -/
def strScript (text : List Byte) : List HostAct :=
  chrLines 0 (text.take txtSize) ++ [line (.writeStr (BitVec.ofNat 8 (min text.length 255)))]

end Sys2Proof.Machine
end

