-- ==== Sys2Proof/Machine/Wire.lean ====
section
/-! DEFINITION. The event lists of the rules as plain lists (40_transport.md R104 to R108; 41_sequencer.md R140), and what
the receiver sees of them on the two lines (R112). No step reads these: statements are made with them. -/

namespace Sys2Proof.Machine

/-- `B w d` (R104). -/
def startEvents : List PinEvent := [.both1, .delay, .dat0]

/-- `d w C w D` (R105). -/
def stopEvents : List PinEvent := [.dat0, .delay, .clk1, .delay, .dat1]

/-- `c w d w C w` or `c w D w C w` (R106). -/
def bitEvents (v : Level) : List PinEvent :=
  [.clk0, .delay, if v then .dat1 else .dat0, .delay, .clk1, .delay]

/-- `c D w C w w S0 d w c w` or `c D w C w w S1 w c w` (R107). -/
def ackEvents (a : Level) : List PinEvent :=
  [.clk0, .dat1, .delay, .clk1, .delay, .delay, .sample a] ++
    (if a then [] else [.dat0]) ++ [.delay, .clk0, .delay]

/-- The bits of a byte in the order sent, least significant first (R54). -/
def wireBits (b : Byte) : List Level := (List.range 8).map b.getLsbD

/-- Eight bit cells and the acknowledgment cell (R108). -/
def byteEvents (b : Byte) (a : Level) : List PinEvent := (wireBits b).flatMap bitEvents ++ ackEvents a

/-- The bytes of a frame for the levels sampled, `f k` at the `k`-th SAMPLE (R140, R150). -/
def bytesEvents : List Byte → (Nat → Level) → List PinEvent
  | [], _ => []
  | b :: bs, f => byteEvents b (f 0) ++ if f 0 then [] else bytesEvents bs fun k => f (k + 1)

/-- A whole frame (R140): one start condition, the bytes sent, one stop condition. -/
def frameEvents (bs : List Byte) (f : Nat → Level) : List PinEvent :=
  startEvents ++ bytesEvents bs f ++ stopEvents

/-- How many bytes of a frame go out (R141 b): up to and with the first that samples 1. -/
def sentCount : List Byte → (Nat → Level) → Nat
  | [], _ => 0
  | _ :: bs, f => if f 0 then 1 else 1 + sentCount bs fun k => f (k + 1)

/-- Some byte of a frame of `m` bytes is not acknowledged (R85, R140). -/
def someNack (m : Nat) (f : Nat → Level) : Bool := (List.range m).any f

/-- The event is a SAMPLE. -/
def PinEvent.isSample : PinEvent → Bool
  | .sample _ => true
  | _ => false

/-- The levels the block drives on the two lines. -/
structure Lines where
  scl : Level
  sda : Level
deriving DecidableEq, Repr

/-- The lines after an event (R100). -/
def Lines.after (l : Lines) : PinEvent → Lines
  | .clk0 => { l with scl := false }
  | .clk1 => { l with scl := true }
  | .dat0 => { l with sda := false }
  | .dat1 => { l with sda := true }
  | .both1 => { scl := true, sda := true }
  | .delay => l
  | .sample _ => l

/-- The line states after each event of a list. -/
def lineStates : Lines → List PinEvent → List Lines
  | _, [] => []
  | l, e :: es => l.after e :: lineStates (l.after e) es

/-- The wire symbols (R79, R112). -/
inductive Symbol where
  | start
  | stop
  | rise (v : Level)
deriving DecidableEq, Repr

/-- The symbol an event is, with the receiver's drive `rxSda` held fixed across it (R112): `SCL_LINE = SCL_O` and
`SDA_LINE = SDA_O & RX_SDA` (R21). -/
def symbolOf (rxSda : Level) (before after : Lines) : Option Symbol :=
  let d0 := before.sda && rxSda
  let d1 := after.sda && rxSda
  match before.scl, after.scl with
  | true, true => if d0 && !d1 then some .start else if !d0 && d1 then some .stop else none
  | false, true => if d0 == d1 then some (.rise d0) else none
  | _, _ => none

/-- The symbols of a list of events, each with the receiver's drive during it. -/
def wireView : Lines → List (PinEvent × Level) → List Symbol
  | _, [] => []
  | l, (e, r) :: es => (symbolOf r l (l.after e)).toList ++ wireView (l.after e) es

end Sys2Proof.Machine
end

