-- ==== Sys2Proof/Safety.lean ====
section
/-! DEFINITION. What claims speak of: the invariant of the machine, and what a step of the host leaves alone. -/

namespace Sys2Proof.Machine

/-- `DIGITS` is always in 1 to 6 (R22, R38). -/
def digitsLegal (s : State) : Bool := minDigits ≤ s.digits.toNat && s.digits.toNat ≤ maxDigits

/-- The running operation's frame has the number of bytes its rule gives it (R80). -/
def frameLegal (s : State) : Bool :=
  match s.op with
  | 0x4#4 | 0x5#4 => s.nbytes = 1
  | 0x7#4 | 0x8#4 | 0x9#4 => 2 ≤ s.nbytes
  | _ => false

/-- `STEP` is the index of an event of the current cell (R111); event 7 of the acknowledgment cell exists only when
`ACKV` is 0. -/
def cellLegal (s : State) : Bool :=
  if s.bitIdx = 8 then s.stepIdx ≤ 10 && !(s.stepIdx = 7 && s.ackv)
  else s.bitIdx < 8 && s.stepIdx < 6

/-- The sequencer position is one of those R29 and R111 list; between operations `STAGE` is idle. -/
def positionLegal (s : State) : Bool :=
  if !s.busy then s.stage = .idle
  else
    match s.stage with
    | .idle => s.op = opSetDigits || isReservedOp s.op
    | .pullHigh => s.op = opInit && frameLegal s
    | .start => s.stepIdx < 3 && (s.op = opTStart || frameLegal s)
    | .byte => cellLegal s && (s.op = opTByte || (frameLegal s && s.byteIdx < s.nbytes))
    | .stop => s.stepIdx < 5 && (s.op = opTStop || frameLegal s)

/-- The invariant every step keeps: the digit count in range, a legal position, the known display memory in canonical
form. -/
structure State.Inv (s : State) : Prop where
  digits : digitsLegal s = true
  position : positionLegal s = true
  memory : s.rx.mem.wf = true

/-- The block is between operations (R29, R230). -/
def State.Idle (s : State) : Prop := s.busy = false ∧ s.stage = .idle

/-- The two lines as the block drives them. -/
def State.lines (s : State) : Lines := { scl := s.scl, sda := s.sda }

/-- The stores of the block, the last look-up and the host's actions are the same in both states. -/
structure SameStores (s t : State) : Prop where
  digits : t.digits = s.digits
  segbuf : t.segbuf = s.segbuf
  txt : t.txt = s.txt
  xbuf : t.xbuf = s.xbuf
  segOut : t.segOut = s.segOut
  host : t.host = s.host

/-- Only the wire part differs: lines, trace, `PHASE`, `ACKV`, `ERR`, the serializer, the place in the frame, the inputs
used up and what is known of the receiver. -/
structure WireOnly (s t : State) : Prop extends SameStores s t where
  result : t.result = s.result
  busy : t.busy = s.busy
  done : t.done = s.done
  op : t.op = s.op
  arg : t.arg = s.arg
  stage : t.stage = s.stage
  stepIdx : t.stepIdx = s.stepIdx

/-- The serializer and the frame's registers are the same in both states. -/
structure SameSerializer (s t : State) : Prop where
  byteIdx : t.byteIdx = s.byteIdx
  nbytes : t.nbytes = s.nbytes
  bitIdx : t.bitIdx = s.bitIdx
  shift : t.shift = s.shift
  err : t.err = s.err
  ackv : t.ackv = s.ackv

/-- The inputs still to come are the same in both states. -/
structure SameInputs (s t : State) : Prop where
  rxIn : t.rxIn = s.rxIn
  free : t.free = s.free

/-- The lines and `PHASE` are the same in both states, and no event was performed between. -/
structure NoEvent (s t : State) : Prop where
  scl : t.scl = s.scl
  sda : t.sda = s.sda
  phase : t.phase = s.phase
  trace : t.trace = s.trace
  rx : t.rx = s.rx

/-- A host command has ended (R148, R245): the block accepts the next. -/
structure Ended (t : State) : Prop where
  busy : t.busy = false
  done : t.done = true
  stage : t.stage = .idle

/-- The bytes of the frame an operation sends (R142, R143, R145, R146, R186), `none` for an operation without a frame. -/
def frameBytes (s : State) : Instr → Option (List Byte)
  | .init _ => some [0x40]
  | .setBright level => some [brightByte level]
  | .writeRaw _ => some (0xC0 :: rawBytes s)
  | .writeStr n => some (0xC0 :: textBytes n s)
  | .clear _ => some (0xC0 :: zeroBytes s)
  | _ => none

/-- The events before the frame: `INIT` alone has one, its `BOTH1` (R141, R142). -/
def leadingEvents : Instr → List PinEvent
  | .init _ => [.both1]
  | _ => []

end Sys2Proof.Machine
end

