-- ==== Sys2Proof/Certificates/Slice0/Obligations.lean ====
section
/-! DEFINITION. The statements for the provers. Each docstring says what the statement claims; OBLIGATIONS.json cites the
rules. A free value or an input level is never assumed to have a particular value. -/

open Sys2Proof Sys2Proof.Machine

/-- One word of every command code, of both buffer writes, of each kind of wire command byte, and encoder codes
decode to the instruction the tables give. -/
def Obligations.SampleWordsDecode : Prop :=
  decode (.cmd 0x100) = .ok (.tStart 0x00) ∧ decode (.cmd 0x2FF) = .ok (.tStop 0xFF) ∧
  decode (.cmd 0x3A5) = .ok (.tByte 0xA5) ∧ decode (.cmd 0x400) = .ok (.init 0x00) ∧
  decode (.cmd 0x505) = .ok (.setBright 0x05) ∧ decode (.cmd 0x609) = .ok (.setDigits 0x09) ∧
  decode (.cmd 0x700) = .ok (.writeRaw 0x00) ∧ decode (.cmd 0x804) = .ok (.writeStr 0x04) ∧
  decode (.cmd 0x900) = .ok (.clear 0x00) ∧ decode (.cmd 0x001) = .ok (.reserved0 0x01) ∧
  decode (.cmd 0xA12) = .ok (.reservedA 0x12) ∧ decode (.cmd 0xB80) = .ok (.reservedB 0x80) ∧
  decode (.cmd 0xC01) = .ok (.reservedC 0x01) ∧ decode (.cmd 0xD7E) = .ok (.reservedD 0x7E) ∧
  decode (.cmd 0xE00) = .ok (.reservedE 0x00) ∧ decode (.cmd 0xFFF) = .ok (.reservedF 0xFF) ∧
  decode (.buf 0x05DB) = .ok (.seg 5 0xDB) ∧ decode (.buf 0x1B31) = .ok (.chr 11 0x31) ∧
  decode (.wire 0x40) = .ok .wDataCmd ∧ decode (.wire 0xC0) = .ok .wAddrCmd ∧
  decode (.wire 0x80) = .ok .wDispOff ∧ decode (.wire 0x8C) = .ok (.wDispOn 4) ∧
  decode (.code 0x2D) = .ok .segromMinus ∧ decode (.code 0x41) = .ok (.segromA false) ∧
  decode (.code 0x79) = .ok (.segromY true) ∧ decode (.code 0x4B) = .ok (.segromOther 0x4B)

/-- For every well-formed instruction, with every operand at every value, decoding its encoding answers exactly that
instruction. -/
def Obligations.DecodeOfEncode : Prop :=
  ∀ i : Instr, WellFormed i = true → decode (encode i) = .ok i

/-- If a word decodes to an instruction, the instruction is well-formed and its encoding is that word: no bit of a
word is dropped. -/
def Obligations.EncodeOfDecode : Prop :=
  ∀ (w : FetchWord) (i : Instr), decode w = .ok i → WellFormed i = true ∧ encode i = w

/-- Between operations, a host action that names a wire byte other than 0x40, 0xC0, 0x80 and 0x88 to 0x8F is refused
by name. -/
def Obligations.UndefinedWireByteIsRefused : Prop :=
  ∀ (b : Byte) (s : State) (rest : List HostAct), s.busy = false → s.host = .word (.wire b) :: rest →
    b ≠ 0x40 → b ≠ 0xC0 → b ≠ 0x80 → (b.toNat < 0x88 ∨ 0x8F < b.toNat) →
    step s = .refused (.notAnInstruction (.notAWireCommand b))

/-- When the block is between operations and the host's next action is a word that decodes to an instruction, the
step is exec of that instruction, with the action taken from the queue and done low. -/
def Obligations.StepRunsTheDecodedInstruction : Prop :=
  ∀ (s : State) (w : FetchWord) (rest : List HostAct) (i : Instr), s.busy = false → s.host = .word w :: rest →
    decode w = .ok i → step s = exec i { s with host := rest, done := false }

/-- Between operations, with no host action to come, the step changes nothing but that done falls. -/
def Obligations.IdleBlockWaits : Prop :=
  ∀ s : State, s.busy = false → s.host = [] → step s = .next { s with done := false }

/-- While an operation runs and the host's next action is no clock cycle, a step answers a state exactly when the
operation's next event does, and it is the state that event gives, done having fallen; the host's actions stay as
they are; the trace grows by one event, and by none when the operation has no event (stage 0). -/
def Obligations.HostWordIsHeldWhileBusy : Prop :=
  ∀ s : State, s.busy = true → (∀ p rest, s.host ≠ .clk p :: rest) →
    (∀ t, step s = .next t ↔ tickInput (clearDone s) = some t) ∧
    (∀ t, step s = .next t → t.host = s.host ∧
      if s.stage = .idle then t.trace = s.trace else ∃ e, t.trace = s.trace ++ [e])

/-- While an operation runs, a clock cycle gives the same outcome whatever stands on cmd_valid, cmd_op and cmd_arg;
and executing a host command as a whole then leaves the state as it is. The second is the model's reading of R148
(log 2). -/
def Obligations.CommandWordIsIgnoredWhileBusy : Prop :=
  (∀ (p : PortIn) (v : Bool) (o : BitVec 4) (a : Byte) (s : State), s.busy = true →
    clockCycle { p with cmdValid := v, cmdOp := o, cmdArg := a } s = clockCycle p s) ∧
  (∀ (w : BitVec 12) (s : State), s.busy = true → exec (decodeCmd w) s = .next s)

/-- Whatever the state, every instruction answers a next state: none faults and none is refused. That the seven
reserved codes are not refused either is the model's choice (log 7): R73, R219 and U1 advise a model to refuse them.
-/
def Obligations.EveryInstructionAnswersANextState : Prop :=
  ∀ (i : Instr) (s : State), ∃ t, exec i s = .next t

/-- T_START, accepted between operations, performs BOTH1, DELAY, DAT0 and ends with SCL_O = 1, SDA_O = 0, PHASE = 1,
RESULT = 0 whatever the lines were; it changes no store, no serializer register and uses no input; its command code
is 1 and its argument is ignored; the line states from (1,1) are (1,1) (1,1) (1,0). -/
def Obligations.TStartEmitsTheStartCondition : Prop :=
  (∀ arg : Byte, decode (.cmd (0x1#4 ++ arg)) = .ok (.tStart arg)) ∧
  (∀ (arg : Byte) (s : State), s.busy = false → ∃ t, exec (.tStart arg) s = .next t ∧
    t.trace = s.trace ++ [.both1, .delay, .dat0] ∧ t.scl = true ∧ t.sda = false ∧ t.phase = true ∧
    t.result = false ∧ Ended t ∧ SameStores s t ∧ SameSerializer s t ∧ SameInputs s t) ∧
  lineStates ⟨true, true⟩ [.both1, .delay, .dat0] = [⟨true, true⟩, ⟨true, true⟩, ⟨true, false⟩]

/-- T_STOP, accepted between operations, performs DAT0, DELAY, CLK1, DELAY, DAT1 and ends with both lines high,
PHASE = 0, RESULT = 0, whatever the state before; it changes no store, no serializer register and uses no input; its
command code is 2; the line states from (0,1) are (0,0) (0,0) (1,0) (1,0) (1,1). -/
def Obligations.TStopEmitsTheStopCondition : Prop :=
  (∀ arg : Byte, decode (.cmd (0x2#4 ++ arg)) = .ok (.tStop arg)) ∧
  (∀ (arg : Byte) (s : State), s.busy = false → ∃ t, exec (.tStop arg) s = .next t ∧
    t.trace = s.trace ++ [.dat0, .delay, .clk1, .delay, .dat1] ∧ t.scl = true ∧ t.sda = true ∧ t.phase = false ∧
    t.result = false ∧ Ended t ∧ SameStores s t ∧ SameSerializer s t ∧ SameInputs s t) ∧
  lineStates ⟨false, true⟩ [.dat0, .delay, .clk1, .delay, .dat1] =
    [⟨false, false⟩, ⟨false, false⟩, ⟨true, false⟩, ⟨true, false⟩, ⟨true, true⟩]

/-- T_BYTE b, accepted between operations, performs the bit cells of b[0] to b[7] and the acknowledgment cell for
the level a that comes; it ends with SCL_O = 0, SDA_O = a, ACKV = a, RESULT = a, SHIFT = 0, PHASE as before, no
store changed, one level used up; the trace has 59 events when acknowledged and 58 when not, 29 delays, 9 clock
pulses and one SAMPLE; its command code is 3; the bits of 0x40 are 0,0,0,0,0,0,1,0. -/
def Obligations.TByteSendsItsBitsAndSamplesOnce : Prop :=
  (∀ b : Byte, decode (.cmd (0x3#4 ++ b)) = .ok (.tByte b)) ∧
  (∀ (b : Byte) (s : State), s.busy = false → ∃ t, exec (.tByte b) s = .next t ∧
    t.trace = s.trace ++
      (bitEvents (b.getLsbD 0) ++ bitEvents (b.getLsbD 1) ++ bitEvents (b.getLsbD 2) ++ bitEvents (b.getLsbD 3) ++
       bitEvents (b.getLsbD 4) ++ bitEvents (b.getLsbD 5) ++ bitEvents (b.getLsbD 6) ++ bitEvents (b.getLsbD 7) ++
       ackEvents (comingLevel s 0)) ∧
    t.scl = false ∧ t.sda = comingLevel s 0 ∧ t.ackv = comingLevel s 0 ∧ t.result = comingLevel s 0 ∧
    t.shift = 0 ∧ t.phase = s.phase ∧ t.err = s.err ∧ t.byteIdx = s.byteIdx ∧ t.nbytes = s.nbytes ∧
    (∀ k, comingLevel t k = comingLevel s (k + 1)) ∧ Ended t ∧ SameStores s t) ∧
  (∀ (b : Byte) (a : Level), (byteEvents b a).length = (if a then 58 else 59) ∧
    (byteEvents b a).count .delay = 29 ∧ (byteEvents b a).count .clk1 = 9 ∧
    (byteEvents b a).countP PinEvent.isSample = 1) ∧
  wireBits 0x40 = [false, false, false, false, false, false, true, false]

/-- After a T_BYTE that samples 1 the lines are (0,1) and the result is 1; a T_STOP that follows takes the lines
through (0,0) (0,0) (1,0) (1,0) (1,1) and leaves both high. -/
def Obligations.FailedByteThenStopEndsIdleHigh : Prop :=
  ∀ (b arg : Byte) (s : State), s.busy = false → comingLevel s 0 = true →
    ∃ t u, exec (.tByte b) s = .next t ∧ t.result = true ∧ t.scl = false ∧ t.sda = true ∧
      exec (.tStop arg) t = .next u ∧ u.trace = t.trace ++ stopEvents ∧
      lineStates t.lines stopEvents =
        [⟨false, false⟩, ⟨false, false⟩, ⟨true, false⟩, ⟨true, false⟩, ⟨true, true⟩] ∧
      u.scl = true ∧ u.sda = true

/-- CLK0, CLK1, DAT0, DAT1 and BOTH1 write their lines and nothing else of the block; DELAY writes nothing; SAMPLE
reads SDA_O and the receiver's drive, writes that level to ACKV and no line; each adds itself to the trace. -/
def Obligations.EachEventWritesOnlyItsLines : Prop :=
  ∀ s : State,
    emit .clk0 s = { s with scl := false, trace := s.trace ++ [.clk0] } ∧
    emit .clk1 s = { s with scl := true, trace := s.trace ++ [.clk1] } ∧
    emit .dat0 s = { s with sda := false, trace := s.trace ++ [.dat0] } ∧
    emit .dat1 s = { s with sda := true, trace := s.trace ++ [.dat1] } ∧
    emit .both1 s = { s with scl := true, sda := true, trace := s.trace ++ [.both1] } ∧
    emit .delay s = { s with trace := s.trace ++ [.delay] } ∧
    ∀ r : Level, sampleAt r s =
      { s with ackv := s.sda && r, trace := s.trace ++ [.sample (s.sda && r)] }

/-- INIT, accepted between operations, performs BOTH1 and then the frame of the one byte 0x40; its result and ACKV
are the level sampled; it ends with both lines high and PHASE = 0 and changes no store; the trace has 68 events when
acknowledged and 67 when not; its command code is 4. -/
def Obligations.InitSendsTheDataCommand : Prop :=
  (∀ arg : Byte, decode (.cmd (0x4#4 ++ arg)) = .ok (.init arg)) ∧
  (∀ (arg : Byte) (s : State), s.busy = false → ∃ t, exec (.init arg) s = .next t ∧
    t.trace = s.trace ++ (.both1 :: (startEvents ++ byteEvents 0x40 (comingLevel s 0) ++ stopEvents)) ∧
    t.result = comingLevel s 0 ∧ t.ackv = comingLevel s 0 ∧
    t.scl = true ∧ t.sda = true ∧ t.phase = false ∧ Ended t ∧ SameStores s t) ∧
  (∀ a : Level, (PinEvent.both1 :: (startEvents ++ byteEvents 0x40 a ++ stopEvents)).length = if a then 67 else 68) ∧
  wireBits 0x40 = [false, false, false, false, false, false, true, false]

/-- SET_BRIGHT, accepted between operations, sends one frame with one byte: 0x80 when ARG is 0, else 0x88 plus one
less than the smaller of ARG and 8; its result and ACKV are the level sampled; it ends with both lines high and
PHASE = 0 and changes no store, whatever was sent before; its command code is 5. -/
def Obligations.SetBrightSendsTheClampedLevel : Prop :=
  (∀ level : Byte, decode (.cmd (0x5#4 ++ level)) = .ok (.setBright level)) ∧
  (∀ (level : Byte) (s : State), s.busy = false → ∃ (c : Byte) (t : State),
    c.toNat = (if level.toNat = 0 then 0x80 else 0x88 ||| (min level.toNat 8 - 1)) ∧
    exec (.setBright level) s = .next t ∧
    t.trace = s.trace ++ (startEvents ++ byteEvents c (comingLevel s 0) ++ stopEvents) ∧
    t.result = comingLevel s 0 ∧ t.ackv = comingLevel s 0 ∧
    t.scl = true ∧ t.sda = true ∧ t.phase = false ∧ Ended t ∧ SameStores s t)

/-- SET_DIGITS, accepted between operations, sets DIGITS to 1 when ARG is 0, to 6 when it is above 6, else to ARG;
it performs no event, touches no line and not PHASE, changes no buffer, and its result is 0; its command code is 6.
-/
def Obligations.SetDigitsClampsTheCount : Prop :=
  (∀ count : Byte, decode (.cmd (0x6#4 ++ count)) = .ok (.setDigits count)) ∧
  (∀ (count : Byte) (s : State), s.busy = false → ∃ t, exec (.setDigits count) s = .next t ∧
    t.digits.toNat = (if count.toNat = 0 then 1 else if 6 < count.toNat then 6 else count.toNat) ∧
    t.result = false ∧ NoEvent s t ∧ t.segbuf = s.segbuf ∧ t.txt = s.txt ∧ t.xbuf = s.xbuf ∧
    t.segOut = s.segOut ∧ t.host = s.host ∧ Ended t ∧ SameSerializer s t ∧ SameInputs s t)

/-- WRITE_RAW, accepted between operations with DIGITS in 1 to 6, loads XBUF[0..d-1] from SEGBUF[0..d-1], leaves
XBUF from d up and every other store as they were, and sends one frame of 0xC0 and those d bytes, cut at the first
byte not acknowledged; its result is 1 exactly when a byte sent was not acknowledged; it ends with both lines high
and PHASE = 0; its command code is 7. -/
def Obligations.WriteRawSendsTheSegmentBuffer : Prop :=
  (∀ arg : Byte, decode (.cmd (0x7#4 ++ arg)) = .ok (.writeRaw arg)) ∧
  (∀ (arg : Byte) (s : State), s.busy = false → digitsLegal s = true → ∃ t, exec (.writeRaw arg) s = .next t ∧
    t.trace = s.trace ++ frameEvents (0xC0 :: s.segbuf.toList.take s.digits.toNat) (comingLevel s) ∧
    t.result = someNack (s.digits.toNat + 1) (comingLevel s) ∧
    t.ackv = someNack (s.digits.toNat + 1) (comingLevel s) ∧
    t.scl = true ∧ t.sda = true ∧ t.phase = false ∧
    (∀ i, i < s.digits.toNat → t.xbuf[i]? = s.segbuf[i]?) ∧
    (∀ i, s.digits.toNat ≤ i → t.xbuf[i]? = s.xbuf[i]?) ∧
    Ended t ∧ t.digits = s.digits ∧ t.segbuf = s.segbuf ∧ t.txt = s.txt ∧ t.segOut = s.segOut ∧
    t.host = s.host)

/-- CLEAR, accepted between operations with DIGITS in 1 to 6, sets XBUF[0..d-1] to 0, leaves XBUF from d up, SEGBUF,
TXT and every other store as they were, and sends one frame of 0xC0 and d zero bytes, cut at the first byte not
acknowledged; its result is 1 exactly when a byte sent was not acknowledged; it ends with both lines high and PHASE
= 0; its command code is 9. -/
def Obligations.ClearSendsZeroBytes : Prop :=
  (∀ arg : Byte, decode (.cmd (0x9#4 ++ arg)) = .ok (.clear arg)) ∧
  (∀ (arg : Byte) (s : State), s.busy = false → digitsLegal s = true → ∃ t, exec (.clear arg) s = .next t ∧
    t.trace = s.trace ++ frameEvents (0xC0 :: List.replicate s.digits.toNat 0) (comingLevel s) ∧
    t.result = someNack (s.digits.toNat + 1) (comingLevel s) ∧
    t.ackv = someNack (s.digits.toNat + 1) (comingLevel s) ∧
    t.scl = true ∧ t.sda = true ∧ t.phase = false ∧
    (∀ i, i < s.digits.toNat → t.xbuf[i]? = some 0) ∧
    (∀ i, s.digits.toNat ≤ i → t.xbuf[i]? = s.xbuf[i]?) ∧
    Ended t ∧ t.digits = s.digits ∧ t.segbuf = s.segbuf ∧ t.txt = s.txt ∧ t.segOut = s.segOut ∧
    t.host = s.host)

/-- Between operations, with DIGITS in 1 to 6 and SEGBUF[0..DIGITS-1] all zero, WRITE_RAW and CLEAR end with the
same event trace, the same result for the same levels, the same XBUF, the same lines, and the same of what is known
of the receiver, its display memory with it. What is known of the receiver is the model's own view (log 14). -/
def Obligations.ClearIsRawOfZeros : Prop :=
  ∀ (a b : Byte) (s : State), s.busy = false → digitsLegal s = true →
    (∀ i, i < s.digits.toNat → s.segbuf[i]? = some 0) →
    ∃ t u, exec (.writeRaw a) s = .next t ∧ exec (.clear b) s = .next u ∧
      t.trace = u.trace ∧ t.result = u.result ∧ t.xbuf = u.xbuf ∧ t.lines = u.lines ∧ t.rx = u.rx

/-- For INIT, SET_BRIGHT, WRITE_RAW, WRITE_STR and CLEAR, accepted between operations with DIGITS in 1 to 6, and for
every sequence of levels: the new events are INIT's BOTH1 if any, one start condition, j whole bytes of the frame in
order, one stop condition; every byte before the last sent was acknowledged; the result is the level of the last
byte sent, and it is 0 only when all m were sent; one SAMPLE per byte, each reading the next level, and no further
BOTH1; the lines end high with PHASE 0; the frame has 3 + 59 j + 5 events, one less when it failed. -/
def Obligations.EveryFrameHasOneStartAndOneStop : Prop :=
  ∀ (i : Instr) (bs : List Byte) (s : State), frameBytes s i = some bs → s.busy = false → digitsLegal s = true →
    ∃ (t : State) (j : Nat) (mid : List PinEvent), exec i s = .next t ∧
      t.trace = s.trace ++ (leadingEvents i ++ startEvents ++ mid ++ stopEvents) ∧
      1 ≤ j ∧ j ≤ bs.length ∧
      mid = (List.range j).flatMap (fun k => byteEvents (bs.getD k 0) (comingLevel s k)) ∧
      (∀ k, k + 1 < j → comingLevel s k = false) ∧
      t.result = comingLevel s (j - 1) ∧ (t.result = false → j = bs.length) ∧
      mid.countP PinEvent.isSample = j ∧ mid.count .both1 = 0 ∧
      t.scl = true ∧ t.sda = true ∧ t.phase = false ∧ (∀ k, comingLevel t k = comingLevel s (k + j)) ∧
      (startEvents ++ mid ++ stopEvents).length = if t.result then 3 + 59 * (j - 1) + 58 + 5 else 3 + 59 * j + 5

/-- WRITE_STR, accepted between operations with DIGITS in 1 to 6, encodes the first min(ARG, 12) characters of TXT
by the walk into XBUF[0..d-1], leaves XBUF from d up, TXT, SEGBUF and every other store as they were, and sends one
frame of 0xC0 and those d bytes, cut at the first byte not acknowledged; its result is 1 exactly when a byte sent
was not acknowledged; its command code is 8. The walk, spelled out: a character takes a position, a point after it
sets bit 7 and is consumed, and a position without a character is blank. -/
def Obligations.WriteStrSendsTheEncodedText : Prop :=
  (∀ n : Byte, decode (.cmd (0x8#4 ++ n)) = .ok (.writeStr n)) ∧
  (∀ (n : Byte) (s : State), s.busy = false → digitsLegal s = true → ∃ t, exec (.writeStr n) s = .next t ∧
    let bytes := textWalk segOf s.txt (min n.toNat 12) s.digits.toNat 0
    t.trace = s.trace ++ frameEvents (0xC0 :: bytes) (comingLevel s) ∧
    t.result = someNack (s.digits.toNat + 1) (comingLevel s) ∧
    t.ackv = someNack (s.digits.toNat + 1) (comingLevel s) ∧
    t.scl = true ∧ t.sda = true ∧ t.phase = false ∧
    (∀ i, i < s.digits.toNat → t.xbuf[i]? = bytes[i]?) ∧
    (∀ i, s.digits.toNat ≤ i → t.xbuf[i]? = s.xbuf[i]?) ∧
    Ended t ∧ t.digits = s.digits ∧ t.segbuf = s.segbuf ∧ t.txt = s.txt ∧ t.segOut = s.segOut ∧
    t.host = s.host) ∧
  (∀ (txt : Vector Byte 12) (n d i : Nat), textWalk segOf txt n 0 i = [] ∧
    textWalk segOf txt n (d + 1) i =
      if i < n then
        if i + 1 < n ∧ charAt txt (i + 1) = 0x2E then
          (segOf (charAt txt i) ||| 0x80) :: textWalk segOf txt n d (i + 2)
        else segOf (charAt txt i) :: textWalk segOf txt n d (i + 1)
      else 0 :: textWalk segOf txt n d i)

/-- For every table, text and length the walk over d positions gives exactly d bytes; from the end of the text on
they are all zero; and so the empty text gives d blanks. -/
def Obligations.WalkGivesOneBytePerPosition : Prop :=
  ∀ (seg : Byte → Byte) (txt : Vector Byte 12) (n d i : Nat),
    (textWalk seg txt n d i).length = d ∧ (n ≤ i → textWalk seg txt n d i = List.replicate d 0) ∧
    (∀ p, n < i + p + 1 → p < d → (textWalk seg txt n d i)[p]? = some 0)

/-- Two texts that agree below index 2d, with lengths that agree up to 2d, are encoded alike over d positions; so
with d at most 6 no character from index 12 on matters. -/
def Obligations.WalkReadsAtMostTwoCharactersPerPosition : Prop :=
  ∀ (seg : Byte → Byte) (txt txt' : Vector Byte 12) (n n' d : Nat),
    (∀ k, k < 2 * d → charAt txt k = charAt txt' k) → min n (2 * d) = min n' (2 * d) →
    textWalk seg txt n d 0 = textWalk seg txt' n' d 0

/-- Whatever the parameters, two texts whose characters are equal up to the case of letters of the subset give the
same bytes; and with ALPHA_EN = 0 every such letter is blank. -/
def Obligations.LetterCaseDoesNotMatter : Prop :=
  (∀ (alpha : Bool) (glyph : Byte → BitVec 7) (txt txt' : Vector Byte 12) (n d i : Nat),
    (∀ k, charAt txt k = charAt txt' k ∨
      (isSubsetLetter (charAt txt k &&& 0xDF) = true ∧ charAt txt k &&& 0xDF = charAt txt' k &&& 0xDF)) →
    textWalk (segWith alpha glyph) txt n d i = textWalk (segWith alpha glyph) txt' n d i) ∧
  (∀ (glyph : Byte → BitVec 7) (c : Byte), isSubsetLetter (c &&& 0xDF) = true → segWith false glyph c = 0)

/-- For any character immediately followed by a point, the point bit is set on its encoded byte and the point takes
no position; with six digits "-12345" encodes to 40 06 5B 4F 66 6D; with four digits "12.3" encodes to 06 DB 4F 00.
-/
def Obligations.EncoderPropertiesOfTheSource : Prop :=
  (∀ (txt : Vector Byte 12) (n d i : Nat), i + 1 < n → charAt txt (i + 1) = 0x2E →
    textWalk segOf txt n (d + 1) i = (segOf (charAt txt i) ||| 0x80) :: textWalk segOf txt n d (i + 2)) ∧
  textWalk segOf #v[0x2D, 0x31, 0x32, 0x33, 0x34, 0x35, 0, 0, 0, 0, 0, 0] 6 6 0 = [0x40, 0x06, 0x5B, 0x4F, 0x66, 0x6D] ∧
  textWalk segOf #v[0x31, 0x32, 0x2E, 0x33, 0, 0, 0, 0, 0, 0, 0, 0] 4 4 0 = [0x06, 0xDB, 0x4F, 0x00]

/-- The look-ups of the seven rows fixed by the source answer a next state that differs only in the model's field
segOut (log 13), which holds 40, 06, 5B, 4F, 66, 6D and 00 for minus, 1, 2, 3, 4, 5 and space; and these are the
values for all parameters. -/
def Obligations.FixedEncoderEntries : Prop :=
  (∀ s : State,
    exec .segromMinus s = .next { s with segOut := 0x40 } ∧ exec .segrom1 s = .next { s with segOut := 0x06 } ∧
    exec .segrom2 s = .next { s with segOut := 0x5B } ∧ exec .segrom3 s = .next { s with segOut := 0x4F } ∧
    exec .segrom4 s = .next { s with segOut := 0x66 } ∧ exec .segrom5 s = .next { s with segOut := 0x6D } ∧
    exec .segromSpace s = .next { s with segOut := 0x00 }) ∧
  (∀ (alpha : Bool) (glyph : Byte → BitVec 7),
    segWith alpha glyph 0x2D = 0x40 ∧ segWith alpha glyph 0x31 = 0x06 ∧ segWith alpha glyph 0x32 = 0x5B ∧
    segWith alpha glyph 0x33 = 0x4F ∧ segWith alpha glyph 0x34 = 0x66 ∧ segWith alpha glyph 0x35 = 0x6D ∧
    segWith alpha glyph 0x20 = 0x00)

/-- The look-ups of the digits 0, 6, 7, 8 and 9 answer a next state that differs only in the model's field segOut
(log 13), which holds the 7-bit entry of the parameter SEG_ROM for that digit (log 5), bit 7 being 0. -/
def Obligations.OpenDigitEntries : Prop :=
  ∀ s : State,
    exec .segrom0 s = .next { s with segOut := (Config.openGlyph 0x30).setWidth 8 } ∧
    exec .segrom6 s = .next { s with segOut := (Config.openGlyph 0x36).setWidth 8 } ∧
    exec .segrom7 s = .next { s with segOut := (Config.openGlyph 0x37).setWidth 8 } ∧
    exec .segrom8 s = .next { s with segOut := (Config.openGlyph 0x38).setWidth 8 } ∧
    exec .segrom9 s = .next { s with segOut := (Config.openGlyph 0x39).setWidth 8 }

/-- The look-up of each of the twenty letters of the subset, in either case, answers a next state that differs only
in the model's field segOut (log 13): the parameter's 7-bit entry for the upper-case letter when ALPHA_EN is 1, else
0 (log 5). -/
def Obligations.LetterEntries : Prop :=
  ∀ (s : State) (lower : Bool),
    let entry := fun (upper : Byte) => if Config.alphaEn then (Config.openGlyph upper).setWidth 8 else (0 : Byte)
    exec (.segromA lower) s = .next { s with segOut := entry 0x41 } ∧
    exec (.segromB lower) s = .next { s with segOut := entry 0x42 } ∧
    exec (.segromC lower) s = .next { s with segOut := entry 0x43 } ∧
    exec (.segromD lower) s = .next { s with segOut := entry 0x44 } ∧
    exec (.segromE lower) s = .next { s with segOut := entry 0x45 } ∧
    exec (.segromF lower) s = .next { s with segOut := entry 0x46 } ∧
    exec (.segromG lower) s = .next { s with segOut := entry 0x47 } ∧
    exec (.segromH lower) s = .next { s with segOut := entry 0x48 } ∧
    exec (.segromI lower) s = .next { s with segOut := entry 0x49 } ∧
    exec (.segromJ lower) s = .next { s with segOut := entry 0x4A } ∧
    exec (.segromL lower) s = .next { s with segOut := entry 0x4C } ∧
    exec (.segromN lower) s = .next { s with segOut := entry 0x4E } ∧
    exec (.segromO lower) s = .next { s with segOut := entry 0x4F } ∧
    exec (.segromP lower) s = .next { s with segOut := entry 0x50 } ∧
    exec (.segromQ lower) s = .next { s with segOut := entry 0x51 } ∧
    exec (.segromR lower) s = .next { s with segOut := entry 0x52 } ∧
    exec (.segromS lower) s = .next { s with segOut := entry 0x53 } ∧
    exec (.segromT lower) s = .next { s with segOut := entry 0x54 } ∧
    exec (.segromU lower) s = .next { s with segOut := entry 0x55 } ∧
    exec (.segromY lower) s = .next { s with segOut := entry 0x59 }

/-- The look-up of every code that row OTHER stands for answers a next state that differs only in the model's field
segOut (log 13), which holds 0; the point, the code 0x00, the codes 0x80 to 0xFF and the letters outside the subset
are such codes. -/
def Obligations.UnmappedCodesAreBlank : Prop :=
  (∀ (c : Byte) (s : State), WellFormed (.segromOther c) = true →
    exec (.segromOther c) s = .next { s with segOut := 0 }) ∧
  (∀ c : Byte, 0x80 ≤ c.toNat → WellFormed (.segromOther c) = true) ∧
  (∀ c : Byte, c ∈ [0x00, 0x2E, 0x4B, 0x6B, 0x4D, 0x6D, 0x56, 0x76, 0x57, 0x77, 0x58, 0x78, 0x5A, (0x7A : Byte)] →
    WellFormed (.segromOther c) = true)

/-- SEG is a total function of the character code and of the parameters alone, and bit 7 of its value is 0 for every
code, whatever the parameters; a look-up has no side effect on the block: it answers the same state but for the
model's field segOut. -/
def Obligations.EncoderNeverSetsThePointBit : Prop :=
  (∀ (alpha : Bool) (glyph : Byte → BitVec 7) (c : Byte), (segWith alpha glyph c).getLsbD 7 = false) ∧
  (∀ c : Byte, segOf c = segWith Config.alphaEn Config.openGlyph c) ∧
  (∀ (c : Byte) (s : State), exec (decodeCode c) s = .next { s with segOut := segOf c })

/-- The buffer write SEG i,b answers a next state in every state, also while an operation runs: SEGBUF[i] is b when
i is at most 5, every other entry and everything else is as before. -/
def Obligations.SegWritesOneEntry : Prop :=
  ∀ (i : BitVec 4) (b : Byte) (s : State), ∃ t, exec (.seg i b) s = .next t ∧
    (∀ k, k < 6 → t.segbuf[k]? = if k = i.toNat then some b else s.segbuf[k]?) ∧
    t = { s with segbuf := t.segbuf }

/-- The buffer write CHR i,b answers a next state in every state, also while an operation runs: TXT[i] is b when i
is at most 11, every other entry and everything else is as before. -/
def Obligations.ChrWritesOneEntry : Prop :=
  ∀ (i : BitVec 4) (b : Byte) (s : State), ∃ t, exec (.chr i b) s = .next t ∧
    (∀ k, k < 12 → t.txt[k]? = if k = i.toNat then some b else s.txt[k]?) ∧
    t = { s with txt := t.txt }

/-- SEG with an index of 6 to 15 and CHR with an index of 12 to 15 answer the state as it was; the same at the
ports: the buffer port then leaves the state as it was. -/
def Obligations.BufferWriteOutOfRangeChangesNothing : Prop :=
  (∀ (i : BitVec 4) (b : Byte) (s : State), 6 ≤ i.toNat →
    exec (.seg i b) s = .next s ∧ bufWrite false i b s = s) ∧
  (∀ (i : BitVec 4) (b : Byte) (s : State), 12 ≤ i.toNat →
    exec (.chr i b) s = .next s ∧ bufWrite true i b s = s)

/-- In every state, writing an entry of SEGBUF or TXT and then performing the next event gives the same as
performing the event first and writing then; so a host write during a frame cannot change what the frame sends, and
the whole rest of the run commutes with it. -/
def Obligations.BufferWritesDoNotTouchARunningOperation : Prop :=
  (∀ (sel : Bool) (i : BitVec 4) (b : Byte) (r : Level) (s : State),
    tick r (bufWrite sel i b s) = (tick r s).map (bufWrite sel i b)) ∧
  (∀ (n : Nat) (sel : Bool) (i : BitVec 4) (b : Byte) (s : State),
    runEvents n (bufWrite sel i b s) = (runEvents n s).map (bufWrite sel i b))

/-- In a clock cycle without reset that answers a next state: with buf_we and buf_sel 0 SEGBUF becomes SEGBUF with
the entry written and TXT stays; with buf_sel 1 the other way round; without buf_we both stay. -/
def Obligations.BufferPortWritesAtOnce : Prop :=
  ∀ (p : PortIn) (s t : State), p.rstN = true → clockCycle p s = .next t →
    t.segbuf = (if p.bufWe && !p.bufSel then s.segbuf.setIfInBounds p.bufAddr.toNat p.bufWdata else s.segbuf) ∧
    t.txt = (if p.bufWe && p.bufSel then s.txt.setIfInBounds p.bufAddr.toNat p.bufWdata else s.txt)

/-- Each of the seven reserved codes, accepted between operations, answers a next state with RESULT = 1, with no
event performed and no store, serializer register or input changed. That the model gives them the effect of the
hardware is its choice (log 7). -/
def Obligations.ReservedCodesOnlySetTheResult : Prop :=
  ∀ (arg : Byte) (s : State), s.busy = false →
    ∀ c ∈ [(Instr.reserved0 arg, 0x0#4), (.reservedA arg, 0xA#4), (.reservedB arg, 0xB#4), (.reservedC arg, 0xC#4),
      (.reservedD arg, 0xD#4), (.reservedE arg, 0xE#4), (.reservedF arg, 0xF#4)],
    ∃ t, exec c.1 s = .next t ∧ t.result = true ∧ NoEvent s t ∧ SameStores s t ∧ SameSerializer s t ∧
      SameInputs s t ∧ Ended t

/-- Each wire command byte, between operations, answers a next state: the events of that byte for the level that
comes, SCL_O = 0, SDA_O and ACKV the level, PHASE, RESULT, the stores and the position as before. That the rows run
as instructions of their own is the model's choice (log 12). -/
def Obligations.WireCommandBytesAreSentLikeAnyByte : Prop :=
  ∀ (bbb : BitVec 3) (s : State), s.busy = false →
    ∀ c ∈ [(Instr.wDataCmd, 0x40), (.wAddrCmd, 0xC0), (.wDispOff, 0x80), (.wDispOn bbb, BitVec.ofNat 8 (0x88 + bbb.toNat))],
    ∃ t, exec c.1 s = .next t ∧ t.trace = s.trace ++ byteEvents c.2 (comingLevel s 0) ∧
      t.scl = false ∧ t.sda = comingLevel s 0 ∧ t.ackv = comingLevel s 0 ∧ t.shift = 0 ∧
      t.phase = s.phase ∧ t.err = s.err ∧ t.byteIdx = s.byteIdx ∧ t.nbytes = s.nbytes ∧ WireOnly s t

/-- Between operations, right after a start condition and with the byte acknowledged: 0x40 sets the data mode, 0xC0
sets the address to 0, 0x80 switches off with sub-field 0, and 0x88 | bbb switches on with brightness bbb;
everything else known of the receiver stays. -/
def Obligations.ReceiverTakesAcknowledgedCommands : Prop :=
  ∀ (bbb : BitVec 3) (s : State), s.busy = false → s.rx.place = .command → comingLevel s 0 = false →
    (∃ t, exec .wDataCmd s = .next t ∧ t.rx = { s.rx with place := .complete, dataMode := true }) ∧
    (∃ t, exec .wAddrCmd s = .next t ∧ t.rx = { s.rx with place := .address 0 }) ∧
    (∃ t, exec .wDispOff s = .next t ∧ t.rx = { s.rx with place := .complete, display := some (false, 0) }) ∧
    (∃ t, exec (.wDispOn bbb) s = .next t ∧ t.rx = { s.rx with place := .complete, display := some (true, bbb) })

/-- Between operations with the lines idle, DIGITS in 1 to 6, no frame open, the receiver in data mode and every
byte acknowledged, WRITE_RAW, WRITE_STR and CLEAR leave the display memory known to hold at address k, for k below
DIGITS, SEGBUF[k], byte k of the encoded text, and 0, and every other address as it was known before; the display
control and the data mode stay as known. The receiver's view is the model's own (log 14), and that it has six
addresses too (log 15). -/
def Obligations.BurstLandsFromAddressZero : Prop :=
  ∀ (arg : Byte) (s : State), s.busy = false → digitsLegal s = true → s.scl = true → s.sda = true →
    s.rx.place = .outside → s.rx.dataMode = true → (∀ k, k ≤ s.digits.toNat → comingLevel s k = false) →
    ∀ c ∈ [(Instr.writeRaw arg, s.segbuf.toList),
      (.writeStr arg, textWalk segOf s.txt (min arg.toNat 12) s.digits.toNat 0),
      (.clear arg, List.replicate s.digits.toNat 0)],
    ∃ t, exec c.1 s = .next t ∧ t.rx.place = .outside ∧ t.rx.dataMode = true ∧ t.rx.display = s.rx.display ∧
      ∀ k, t.rx.mem.read k = if k < s.digits.toNat then c.2[k]? else s.rx.mem.read k

/-- T_BYTE and the four wire command bytes, between operations with the coming level 1, leave nothing known of the
receiver, nor where it stands; INIT, SET_BRIGHT, WRITE_RAW, WRITE_STR and CLEAR, between operations with DIGITS in 1
to 6 and some byte of the frame not acknowledged, leave nothing known of its data mode, display memory and display
control. That it stands outside a frame after the stop condition is the model's choice (log 27), the view itself log
14. -/
def Obligations.NothingIsKnownAfterAByteNotAcknowledged : Prop :=
  (∀ (b : Byte) (bbb : BitVec 3) (s : State), s.busy = false → comingLevel s 0 = true →
    ∀ i ∈ [Instr.tByte b, .wDataCmd, .wAddrCmd, .wDispOff, .wDispOn bbb],
    ∃ t, exec i s = .next t ∧ t.rx = { place := .lost, dataMode := false, mem := [], display := none }) ∧
  (∀ (i : Instr) (bs : List Byte) (s : State), frameBytes s i = some bs → s.busy = false → digitsLegal s = true →
    someNack bs.length (comingLevel s) = true →
    ∃ t, exec i s = .next t ∧ t.rx = { place := .outside, dataMode := false, mem := [], display := none })

/-- For every command word, between operations with DIGITS in 1 to 6: accepting it at the ports and performing its
events one per step, at most 421 of them, ends with BUSY low in exactly the state that executing the instruction as
a whole answers. That an operation without events, SET_DIGITS among them, ends in the step after its acceptance is
the model's choice (log 9). -/
def Obligations.OperationIsItsEventByEventRun : Prop :=
  ∀ (op : BitVec 4) (arg : Byte) (s : State), s.Idle → digitsLegal s = true →
    (accept op arg s).busy = true ∧
    ∃ (n : Nat) (t : State), 1 ≤ n ∧ n ≤ 421 ∧ runEvents n (accept op arg s) = some t ∧ t.busy = false ∧
      exec (decodeCmd (op ++ arg)) s = .next t

/-- In a clock cycle without reset, with cmd_valid and BUSY = 0, the block latches cmd_op and ARG, sets BUSY, and
performs no event; RESULT stays, SEGBUF and TXT are as the buffer port leaves them. With DIGITS = d in 1 to 6,
XBUF[0..d-1] is loaded in this cycle for WRITE_RAW from SEGBUF, for WRITE_STR with the encoded text, for CLEAR with
0; XBUF from d up stays, and all of XBUF for every other code. That the load reads the buffers after a buffer write
of the same cycle is the model's choice (log 8), and so is that SET_DIGITS does not yet write DIGITS in this cycle
(log 9). -/
def Obligations.AcceptanceAtThePorts : Prop :=
  ∀ (p : PortIn) (s : State), p.rstN = true → p.cmdValid = true → s.busy = false →
    let u := if p.bufWe then bufWrite p.bufSel p.bufAddr p.bufWdata s else s
    ∃ t, clockCycle p s = .next t ∧ t.busy = true ∧ t.done = false ∧ t.op = p.cmdOp ∧ t.arg = p.cmdArg ∧
      NoEvent s t ∧ t.result = s.result ∧ t.digits = s.digits ∧ t.segbuf = u.segbuf ∧ t.txt = u.txt ∧
      (p.cmdOp ≠ 0x7 → p.cmdOp ≠ 0x8 → p.cmdOp ≠ 0x9 → t.xbuf = s.xbuf) ∧
      (digitsLegal s = true →
        (∀ k, s.digits.toNat ≤ k → t.xbuf[k]? = s.xbuf[k]?) ∧
        ∀ k, k < s.digits.toNat →
          (p.cmdOp = 0x7 → t.xbuf[k]? = u.segbuf[k]?) ∧
          (p.cmdOp = 0x8 → t.xbuf[k]? = (textWalk segOf u.txt (min p.cmdArg.toNat 12) s.digits.toNat 0)[k]?) ∧
          (p.cmdOp = 0x9 → t.xbuf[k]? = some 0))

/-- Every command word, executed between operations, answers a next state between operations, with done 1, in which
OP and ARG hold the word and STEP is 0. The spec makes these registers no state that is visible after the operation;
that they keep the word is the model's choice (log 21). -/
def Obligations.TheCommandWordStaysLatched : Prop :=
  ∀ (op : BitVec 4) (arg : Byte) (s : State), s.busy = false →
    ∃ t, exec (decodeCmd (op ++ arg)) s = .next t ∧ Ended t ∧ t.op = op ∧ t.arg = arg ∧ t.stepIdx = 0

/-- In every state that meets the invariant, with an operation running, 421 further events suffice for it to end,
whatever levels are sampled. -/
def Obligations.EveryOperationEnds : Prop :=
  ∀ s : State, s.Inv → s.busy = true → ∃ t, runEvents 421 s = some t ∧ t.busy = false

/-- After reset both lines are high, DIGITS is 1 when DIGITS_INIT is 0, 6 when it is above 6, else DIGITS_INIT,
RESULT, BUSY and PHASE are 0, STAGE is idle, and nothing is known of the receiver. Nothing is claimed of the
elements the spec leaves unspecified. DIGITS_INIT is a constant with no body (log 4). -/
def Obligations.ResetValues : Prop :=
  State.reset.scl = true ∧ State.reset.sda = true ∧
  State.reset.digits.toNat =
    (if Config.digitsInit.toNat = 0 then 1 else if 6 < Config.digitsInit.toNat then 6 else Config.digitsInit.toNat) ∧
  State.reset.result = false ∧ State.reset.busy = false ∧ State.reset.phase = false ∧ State.reset.stage = .idle ∧
  State.reset.rx.mem = [] ∧ State.reset.rx.dataMode = false ∧ State.reset.rx.display = none

/-- A clock cycle with rst_n = 0, in every state and whatever stands on the other inputs, answers a next state with
both lines high, RESULT, BUSY and PHASE 0, STAGE idle, DIGITS the clamp of DIGITS_INIT, no event performed, and
nothing known of the receiver's data mode, display memory and display control; when an operation was running, not
even where it stands. That the inputs, the trace and the last look-up stay is the model's choice (log 22). -/
def Obligations.ResetEndsARunningOperation : Prop :=
  ∀ (p : PortIn) (s : State), p.rstN = false → ∃ t, clockCycle p s = .next t ∧
    t.scl = true ∧ t.sda = true ∧ t.result = false ∧ t.busy = false ∧ t.phase = false ∧ t.stage = .idle ∧
    t.digits = State.reset.digits ∧ t.trace = s.trace ∧
    t.rx.mem = [] ∧ t.rx.dataMode = false ∧ t.rx.display = none ∧ (s.busy = true → t.rx.place = .lost)

/-- From every state that meets the invariant, whatever the host does next, a step that answers a next state answers
one that meets it. -/
def Obligations.EveryStepKeepsTheInvariant : Prop :=
  ∀ s t : State, s.Inv → step s = .next t → t.Inv

/-- After reset DIGITS is in 1 to 6 whatever DIGITS_INIT is, the position is legal and the display memory is
canonical. -/
def Obligations.ResetMeetsTheInvariant : Prop := State.reset.Inv

/-- The block has no trap: from every state that meets the invariant, whatever the host does next, a step does not
fault. -/
def Obligations.NoStepFaults : Prop :=
  ∀ (s : State) (f : Fault), s.Inv → step s ≠ .fault f

/-- Whatever the state, an instruction other than SET_DIGITS that answers a next state leaves DIGITS as it was. -/
def Obligations.OnlySetDigitsWritesDigits : Prop :=
  ∀ (i : Instr) (s t : State), (∀ c, i ≠ .setDigits c) → exec i s = .next t → t.digits = s.digits

/-- Whatever the state, an instruction that answers a next state leaves SEGBUF as it was unless it is SEG, TXT
unless it is CHR, and XBUF unless it is WRITE_RAW, WRITE_STR or CLEAR. -/
def Obligations.WhoWritesTheBuffers : Prop :=
  ∀ (i : Instr) (s t : State), exec i s = .next t →
    ((∀ k b, i ≠ .seg k b) → t.segbuf = s.segbuf) ∧
    ((∀ k b, i ≠ .chr k b) → t.txt = s.txt) ∧
    ((∀ a, i ≠ .writeRaw a) → (∀ n, i ≠ .writeStr n) → (∀ a, i ≠ .clear a) → t.xbuf = s.xbuf)

/-- For every instruction and every state, changing PHASE before it changes at most PHASE after it. -/
def Obligations.PhaseIsReadByNoInstruction : Prop :=
  ∀ (i : Instr) (s t : State) (p : Bool), exec i s = .next t →
    ∃ q, exec i { s with phase := p } = .next { t with phase := q }

/-- From idle lines with the receiver released, a start condition is the one symbol START; after a byte a stop
condition is RISE(0) STOP when the receiver has released by the clock's rise; two start conditions in a row from
idle lines are START, STOP, START; the conditional DAT0 of an acknowledgment cell is no symbol while the receiver
holds the line and a START when it has let go. -/
def Obligations.StartAndStopOnTheWire : Prop :=
  wireView ⟨true, true⟩ (startEvents.zip [true, true, true]) = [.start] ∧
  (∀ x r0 r1 : Level,
    wireView ⟨false, x⟩ (stopEvents.zip [r0, r1, true, true, true]) = [.rise false, .stop]) ∧
  wireView ⟨true, true⟩ ((startEvents ++ startEvents).zip [true, true, true, true, true, true]) =
    [.start, .stop, .start] ∧
  symbolOf false ⟨true, true⟩ (Lines.after ⟨true, true⟩ .dat0) = none ∧
  symbolOf true ⟨true, true⟩ (Lines.after ⟨true, true⟩ .dat0) = some .start

/-- For every byte, every level sampled, start lines (1,0) or a low clock, and every course of the receiver's drive
that is released from the first clock rise to the acknowledgment cell, reads the level at the SAMPLE and still holds
the line low at the conditional DAT0, the symbols are RISE(b[0]) to RISE(b[7]) and RISE(r), r being what the
receiver drives at the ninth rise; no START and no STOP. -/
def Obligations.ByteOnTheWireIsNineRises : Prop :=
  ∀ (b : Byte) (a : Level) (l : Lines) (rs : List Level), (l = ⟨true, false⟩ ∨ l.scl = false) →
    rs.length = (byteEvents b a).length → (∀ k, 4 ≤ k → k < 48 → rs[k]? = some true) →
    rs[54]? = some a → (a = false → rs[55]? = some false) →
    ∃ r, rs[51]? = some r ∧
      wireView l ((byteEvents b a).zip rs) = (wireBits b).map Symbol.rise ++ [.rise r]

/-- For every list of events and every state, performing the events without the DELAYs gives the same state but for
the trace, which lacks them. -/
def Obligations.DroppingDelaysChangesNoLine : Prop :=
  ∀ (es : List PinEvent) (s : State),
    emits (es.filter (· ≠ .delay)) s =
      { emits es s with trace := s.trace ++ es.filter (· ≠ .delay) }

/-- A start condition has 1 delay and 3 events, a bit cell 3 and 6, an acknowledgment cell 5 and 11 (10 when not
acknowledged), a byte 29 and 59 (58), a stop condition 2 and 5, a one-byte frame 32 and 67 (66), INIT 32 and 68
(67); an acknowledged frame of the address command and d digits 3 + 29 (1 + d) delays and 8 + 59 (1 + d) events;
SET_DIGITS none. -/
def Obligations.DelayAndEventCounts : Prop :=
  startEvents.count .delay = 1 ∧ startEvents.length = 3 ∧
  (∀ v, (bitEvents v).count .delay = 3 ∧ (bitEvents v).length = 6) ∧
  (∀ a, (ackEvents a).count .delay = 5 ∧ (ackEvents a).length = if a then 10 else 11) ∧
  (∀ b a, (byteEvents b a).count .delay = 29 ∧ (byteEvents b a).length = if a then 58 else 59) ∧
  stopEvents.count .delay = 2 ∧ stopEvents.length = 5 ∧
  (∀ c f, (frameEvents [c] f).count .delay = 32 ∧ (frameEvents [c] f).length = if f 0 then 66 else 67) ∧
  (∀ c f, (PinEvent.both1 :: frameEvents [c] f).count .delay = 32 ∧
    (PinEvent.both1 :: frameEvents [c] f).length = if f 0 then 67 else 68) ∧
  (∀ (bs : List Byte) (f : Nat → Level), (∀ k, k ≤ bs.length → f k = false) →
    (frameEvents (0xC0 :: bs) f).count .delay = 3 + 29 * (1 + bs.length) ∧
    (frameEvents (0xC0 :: bs) f).length = 8 + 59 * (1 + bs.length)) ∧
  (∀ (c : Byte) (s : State), s.busy = false → ∃ t, exec (.setDigits c) s = .next t ∧ t.trace = s.trace)

/-- Between operations with the lines of RAW bs to come, bs of any length: after one step per buffer write (an index
has 4 bits, so there are at most 16) and one for the command, the run is WRITE_RAW executed with bs in SEGBUF from
entry 0 on, as far as SEGBUF goes, the other entries as before, and the host's further actions still to come. -/
def Obligations.RawScriptShowsItsBytes : Prop :=
  ∀ (bs : List Byte) (rest : List HostAct) (s : State), s.busy = false → s.host = rawScript bs ++ rest →
    ∃ seg : Vector Byte 6, (∀ k, k < 6 → seg[k]? = if k < bs.length then bs[k]? else s.segbuf[k]?) ∧
      Host.Core.run core (min bs.length 16 + 1) s =
        exec (.writeRaw 0) { s with segbuf := seg, host := rest, done := false }

/-- Between operations with the lines of STR text to come, text of any length: after one step for each of its first
twelve characters and one for the command, the run is WRITE_STR executed with those characters in TXT from entry 0
on, the other entries as before; with DIGITS = d in 1 to 6 it answers a next state whose XBUF[0..d-1] is the
encoding of the first min(length, 12) characters. A length above 255 does not fit ARG and is written as 255, which
is read as 12 like every length above 12. -/
def Obligations.StrScriptShowsItsText : Prop :=
  ∀ (text : List Byte) (rest : List HostAct) (s : State), s.busy = false → s.host = strScript text ++ rest →
    ∃ txt : Vector Byte 12, (∀ k, k < 12 → txt[k]? = if k < text.length then text[k]? else s.txt[k]?) ∧
      Host.Core.run core (min text.length 12 + 1) s =
        exec (.writeStr (BitVec.ofNat 8 (min text.length 255))) { s with txt := txt, host := rest, done := false } ∧
      (digitsLegal s = true → ∃ t, Host.Core.run core (min text.length 12 + 1) s = .next t ∧
        ∀ k, k < s.digits.toNat →
          t.xbuf[k]? = (textWalk segOf txt (min text.length 12) s.digits.toNat 0)[k]?)

/-- cmd_ready is the complement of BUSY, xbuf_rdata is XBUF at the address and 0 above 5, and busy, done, result,
phase, digits, scl_o and sda_o are the elements of those names. -/
def Obligations.OutputPorts : Prop :=
  ∀ (addr : BitVec 3) (s : State),
    (outputs addr s).cmdReady = !s.busy ∧
    (∀ h : addr.toNat < 6, (outputs addr s).xbufRdata = s.xbuf[addr.toNat]) ∧
    (6 ≤ addr.toNat → (outputs addr s).xbufRdata = 0) ∧
    (outputs addr s).busy = s.busy ∧ (outputs addr s).done = s.done ∧ (outputs addr s).result = s.result ∧
    (outputs addr s).phase = s.phase ∧ (outputs addr s).digits = s.digits ∧
    (outputs addr s).sclO = s.scl ∧ (outputs addr s).sdaO = s.sda
end

