-- ==== Sys2Proof/Laws/Memory.lean ====
section
/-! SUPPORT. The laws of the display memory: a write is read back, leaves every other address alone, and keeps the
canonical form; so do the receiver's operations. -/

namespace Sys2Proof.Machine

theorem Memory.read_write_same (m : Memory) (k : Nat) (v : Byte) : (m.write k v).read k = some v := by
  induction m with
  | nil => simp [write, read]
  | cons c m ih =>
    obtain ⟨a, x⟩ := c
    unfold write
    split
    · simp [read]
    · split
      · simp [read]
      · simp_all [read]

theorem Memory.read_write_other (m : Memory) (k j : Nat) (v : Byte) (h : j ≠ k) :
    (m.write k v).read j = m.read j := by
  induction m with
  | nil => simp [write, read, h.symm]
  | cons c m ih =>
    obtain ⟨a, x⟩ := c
    unfold write
    split
    · simp [read, h.symm]
    · split
      · rename_i h2
        subst h2
        simp [read, h.symm]
      · simp [read, ih]

/-- A canonical list with a smaller cell in front is canonical. -/
theorem Memory.wf_cons_write (m : Memory) (a k : Nat) (x v : Byte) (hm : Memory.wf ((a, x) :: m) = true) (h : a < k) :
    Memory.wf ((a, x) :: m.write k v) = true := by
  induction m generalizing a x with
  | nil => simp [write, wf, h]
  | cons c m ih =>
    obtain ⟨b, y⟩ := c
    simp only [wf, Bool.and_eq_true, decide_eq_true_eq] at hm
    unfold write
    split
    · simp_all [wf]
    · split
      · subst_vars
        cases m with
        | nil => simp [wf, h]
        | cons c m => obtain ⟨d, z⟩ := c; simp_all [wf]
      · have := ih b y hm.2 (by omega)
        simp_all [wf]

theorem Memory.write_wf (m : Memory) (k : Nat) (v : Byte) (h : m.wf = true) : (m.write k v).wf = true := by
  cases m with
  | nil => rfl
  | cons c m =>
    obtain ⟨a, x⟩ := c
    unfold write
    split
    · simp_all [wf]
    · split
      · subst_vars
        cases m with
        | nil => rfl
        | cons c m => obtain ⟨d, z⟩ := c; simp_all [wf]
      · exact wf_cons_write m a k x v h (by omega)

@[simp] theorem Receiver.unknownAt_wf (p : RxPlace) : (Receiver.unknownAt p).mem.wf = true := rfl

theorem Receiver.onRaise_wf (r : Receiver) (c d : Level) (h : r.mem.wf = true) : (r.onRaise c d).mem.wf = true := by
  unfold onRaise; split
  · exact h
  · rfl

theorem Receiver.onStart_wf (r : Receiver) (h : r.mem.wf = true) : r.onStart.mem.wf = true := by
  unfold onStart; split
  · exact h
  · rfl

theorem Receiver.onCommand_wf (r : Receiver) (b : Byte) (h : r.mem.wf = true) : (r.onCommand b).mem.wf = true := by
  unfold onCommand; split <;> first | exact h | rfl

theorem Receiver.onSegment_wf (r : Receiver) (n : Nat) (b : Byte) (h : r.mem.wf = true) :
    (r.onSegment n b).mem.wf = true := by
  unfold onSegment; split
  · exact Memory.write_wf _ _ _ h
  · rfl

theorem Receiver.onByte_wf (r : Receiver) (b : Byte) (a : Level) (h : r.mem.wf = true) :
    (r.onByte b a).mem.wf = true := by
  unfold onByte; split
  · rfl
  · split
    · exact r.onCommand_wf b h
    · exact r.onSegment_wf _ b h
    · rfl

theorem Receiver.onStop_wf (r : Receiver) (h : r.mem.wf = true) : r.onStop.mem.wf = true := by
  unfold onStop; split <;> first | exact h | rfl

end Sys2Proof.Machine
end

