-- ==== Sys2Proof/Laws/State.lean ====
section
/-! SUPPORT. One lemma per field per update of State, so that no proof unfolds an update. -/

namespace Sys2Proof.Machine

section
variable (b : Byte) (s : State)

@[simp] theorem loadByte_scl : (loadByte b s).scl = s.scl := rfl
@[simp] theorem loadByte_sda : (loadByte b s).sda = s.sda := rfl
@[simp] theorem loadByte_digits : (loadByte b s).digits = s.digits := rfl
@[simp] theorem loadByte_segbuf : (loadByte b s).segbuf = s.segbuf := rfl
@[simp] theorem loadByte_txt : (loadByte b s).txt = s.txt := rfl
@[simp] theorem loadByte_xbuf : (loadByte b s).xbuf = s.xbuf := rfl
@[simp] theorem loadByte_result : (loadByte b s).result = s.result := rfl
@[simp] theorem loadByte_busy : (loadByte b s).busy = s.busy := rfl
@[simp] theorem loadByte_phase : (loadByte b s).phase = s.phase := rfl
@[simp] theorem loadByte_done : (loadByte b s).done = s.done := rfl
@[simp] theorem loadByte_op : (loadByte b s).op = s.op := rfl
@[simp] theorem loadByte_arg : (loadByte b s).arg = s.arg := rfl
@[simp] theorem loadByte_stage : (loadByte b s).stage = s.stage := rfl
@[simp] theorem loadByte_byteIdx : (loadByte b s).byteIdx = s.byteIdx := rfl
@[simp] theorem loadByte_nbytes : (loadByte b s).nbytes = s.nbytes := rfl
@[simp] theorem loadByte_bitIdx : (loadByte b s).bitIdx = 0 := rfl
@[simp] theorem loadByte_stepIdx : (loadByte b s).stepIdx = s.stepIdx := rfl
@[simp] theorem loadByte_shift : (loadByte b s).shift = b := rfl
@[simp] theorem loadByte_err : (loadByte b s).err = s.err := rfl
@[simp] theorem loadByte_ackv : (loadByte b s).ackv = s.ackv := rfl
@[simp] theorem loadByte_rx : (loadByte b s).rx = s.rx := rfl
@[simp] theorem loadByte_segOut : (loadByte b s).segOut = s.segOut := rfl
@[simp] theorem loadByte_trace : (loadByte b s).trace = s.trace := rfl
@[simp] theorem loadByte_host : (loadByte b s).host = s.host := rfl
@[simp] theorem loadByte_rxIn : (loadByte b s).rxIn = s.rxIn := rfl
@[simp] theorem loadByte_free : (loadByte b s).free = s.free := rfl

end

section
variable (s : State)

@[simp] theorem shiftBit_scl : (shiftBit s).scl = s.scl := rfl
@[simp] theorem shiftBit_sda : (shiftBit s).sda = s.sda := rfl
@[simp] theorem shiftBit_digits : (shiftBit s).digits = s.digits := rfl
@[simp] theorem shiftBit_segbuf : (shiftBit s).segbuf = s.segbuf := rfl
@[simp] theorem shiftBit_txt : (shiftBit s).txt = s.txt := rfl
@[simp] theorem shiftBit_xbuf : (shiftBit s).xbuf = s.xbuf := rfl
@[simp] theorem shiftBit_result : (shiftBit s).result = s.result := rfl
@[simp] theorem shiftBit_busy : (shiftBit s).busy = s.busy := rfl
@[simp] theorem shiftBit_phase : (shiftBit s).phase = s.phase := rfl
@[simp] theorem shiftBit_done : (shiftBit s).done = s.done := rfl
@[simp] theorem shiftBit_op : (shiftBit s).op = s.op := rfl
@[simp] theorem shiftBit_arg : (shiftBit s).arg = s.arg := rfl
@[simp] theorem shiftBit_stage : (shiftBit s).stage = s.stage := rfl
@[simp] theorem shiftBit_byteIdx : (shiftBit s).byteIdx = s.byteIdx := rfl
@[simp] theorem shiftBit_nbytes : (shiftBit s).nbytes = s.nbytes := rfl
@[simp] theorem shiftBit_bitIdx : (shiftBit s).bitIdx = s.bitIdx + 1 := rfl
@[simp] theorem shiftBit_stepIdx : (shiftBit s).stepIdx = s.stepIdx := rfl
@[simp] theorem shiftBit_shift : (shiftBit s).shift = s.shift >>> 1 := rfl
@[simp] theorem shiftBit_err : (shiftBit s).err = s.err := rfl
@[simp] theorem shiftBit_ackv : (shiftBit s).ackv = s.ackv := rfl
@[simp] theorem shiftBit_rx : (shiftBit s).rx = s.rx := rfl
@[simp] theorem shiftBit_segOut : (shiftBit s).segOut = s.segOut := rfl
@[simp] theorem shiftBit_trace : (shiftBit s).trace = s.trace := rfl
@[simp] theorem shiftBit_host : (shiftBit s).host = s.host := rfl
@[simp] theorem shiftBit_rxIn : (shiftBit s).rxIn = s.rxIn := rfl
@[simp] theorem shiftBit_free : (shiftBit s).free = s.free := rfl

end

section
variable (s : State)

@[simp] theorem ackFailure_scl : (ackFailure s).scl = s.scl := rfl
@[simp] theorem ackFailure_sda : (ackFailure s).sda = s.sda := rfl
@[simp] theorem ackFailure_digits : (ackFailure s).digits = s.digits := rfl
@[simp] theorem ackFailure_segbuf : (ackFailure s).segbuf = s.segbuf := rfl
@[simp] theorem ackFailure_txt : (ackFailure s).txt = s.txt := rfl
@[simp] theorem ackFailure_xbuf : (ackFailure s).xbuf = s.xbuf := rfl
@[simp] theorem ackFailure_result : (ackFailure s).result = s.result := rfl
@[simp] theorem ackFailure_busy : (ackFailure s).busy = s.busy := rfl
@[simp] theorem ackFailure_phase : (ackFailure s).phase = s.phase := rfl
@[simp] theorem ackFailure_done : (ackFailure s).done = s.done := rfl
@[simp] theorem ackFailure_op : (ackFailure s).op = s.op := rfl
@[simp] theorem ackFailure_arg : (ackFailure s).arg = s.arg := rfl
@[simp] theorem ackFailure_stage : (ackFailure s).stage = s.stage := rfl
@[simp] theorem ackFailure_byteIdx : (ackFailure s).byteIdx = s.byteIdx := rfl
@[simp] theorem ackFailure_nbytes : (ackFailure s).nbytes = s.nbytes := rfl
@[simp] theorem ackFailure_bitIdx : (ackFailure s).bitIdx = s.bitIdx := rfl
@[simp] theorem ackFailure_stepIdx : (ackFailure s).stepIdx = s.stepIdx := rfl
@[simp] theorem ackFailure_shift : (ackFailure s).shift = s.shift := rfl
@[simp] theorem ackFailure_err : (ackFailure s).err = true := rfl
@[simp] theorem ackFailure_ackv : (ackFailure s).ackv = s.ackv := rfl
@[simp] theorem ackFailure_rx : (ackFailure s).rx = s.rx := rfl
@[simp] theorem ackFailure_segOut : (ackFailure s).segOut = s.segOut := rfl
@[simp] theorem ackFailure_trace : (ackFailure s).trace = s.trace := rfl
@[simp] theorem ackFailure_host : (ackFailure s).host = s.host := rfl
@[simp] theorem ackFailure_rxIn : (ackFailure s).rxIn = s.rxIn := rfl
@[simp] theorem ackFailure_free : (ackFailure s).free = s.free := rfl

end

section
variable (n : Nat) (s : State)

@[simp] theorem beginFrame_scl : (beginFrame n s).scl = s.scl := rfl
@[simp] theorem beginFrame_sda : (beginFrame n s).sda = s.sda := rfl
@[simp] theorem beginFrame_digits : (beginFrame n s).digits = s.digits := rfl
@[simp] theorem beginFrame_segbuf : (beginFrame n s).segbuf = s.segbuf := rfl
@[simp] theorem beginFrame_txt : (beginFrame n s).txt = s.txt := rfl
@[simp] theorem beginFrame_xbuf : (beginFrame n s).xbuf = s.xbuf := rfl
@[simp] theorem beginFrame_result : (beginFrame n s).result = s.result := rfl
@[simp] theorem beginFrame_busy : (beginFrame n s).busy = s.busy := rfl
@[simp] theorem beginFrame_phase : (beginFrame n s).phase = s.phase := rfl
@[simp] theorem beginFrame_done : (beginFrame n s).done = s.done := rfl
@[simp] theorem beginFrame_op : (beginFrame n s).op = s.op := rfl
@[simp] theorem beginFrame_arg : (beginFrame n s).arg = s.arg := rfl
@[simp] theorem beginFrame_stage : (beginFrame n s).stage = s.stage := rfl
@[simp] theorem beginFrame_byteIdx : (beginFrame n s).byteIdx = 0 := rfl
@[simp] theorem beginFrame_nbytes : (beginFrame n s).nbytes = BitVec.ofNat 3 n := rfl
@[simp] theorem beginFrame_bitIdx : (beginFrame n s).bitIdx = s.bitIdx := rfl
@[simp] theorem beginFrame_stepIdx : (beginFrame n s).stepIdx = s.stepIdx := rfl
@[simp] theorem beginFrame_shift : (beginFrame n s).shift = s.shift := rfl
@[simp] theorem beginFrame_err : (beginFrame n s).err = false := rfl
@[simp] theorem beginFrame_ackv : (beginFrame n s).ackv = s.ackv := rfl
@[simp] theorem beginFrame_rx : (beginFrame n s).rx = s.rx := rfl
@[simp] theorem beginFrame_segOut : (beginFrame n s).segOut = s.segOut := rfl
@[simp] theorem beginFrame_trace : (beginFrame n s).trace = s.trace := rfl
@[simp] theorem beginFrame_host : (beginFrame n s).host = s.host := rfl
@[simp] theorem beginFrame_rxIn : (beginFrame n s).rxIn = s.rxIn := rfl
@[simp] theorem beginFrame_free : (beginFrame n s).free = s.free := rfl

end

section
variable (o : BitVec 4) (a : Byte) (s : State)

@[simp] theorem latch_scl : (latch o a s).scl = s.scl := rfl
@[simp] theorem latch_sda : (latch o a s).sda = s.sda := rfl
@[simp] theorem latch_digits : (latch o a s).digits = s.digits := rfl
@[simp] theorem latch_segbuf : (latch o a s).segbuf = s.segbuf := rfl
@[simp] theorem latch_txt : (latch o a s).txt = s.txt := rfl
@[simp] theorem latch_xbuf : (latch o a s).xbuf = s.xbuf := rfl
@[simp] theorem latch_result : (latch o a s).result = s.result := rfl
@[simp] theorem latch_busy : (latch o a s).busy = true := rfl
@[simp] theorem latch_phase : (latch o a s).phase = s.phase := rfl
@[simp] theorem latch_done : (latch o a s).done = s.done := rfl
@[simp] theorem latch_op : (latch o a s).op = o := rfl
@[simp] theorem latch_arg : (latch o a s).arg = a := rfl
@[simp] theorem latch_stage : (latch o a s).stage = s.stage := rfl
@[simp] theorem latch_byteIdx : (latch o a s).byteIdx = s.byteIdx := rfl
@[simp] theorem latch_nbytes : (latch o a s).nbytes = s.nbytes := rfl
@[simp] theorem latch_bitIdx : (latch o a s).bitIdx = s.bitIdx := rfl
@[simp] theorem latch_stepIdx : (latch o a s).stepIdx = 0 := rfl
@[simp] theorem latch_shift : (latch o a s).shift = s.shift := rfl
@[simp] theorem latch_err : (latch o a s).err = s.err := rfl
@[simp] theorem latch_ackv : (latch o a s).ackv = s.ackv := rfl
@[simp] theorem latch_rx : (latch o a s).rx = s.rx := rfl
@[simp] theorem latch_segOut : (latch o a s).segOut = s.segOut := rfl
@[simp] theorem latch_trace : (latch o a s).trace = s.trace := rfl
@[simp] theorem latch_host : (latch o a s).host = s.host := rfl
@[simp] theorem latch_rxIn : (latch o a s).rxIn = s.rxIn := rfl
@[simp] theorem latch_free : (latch o a s).free = s.free := rfl

end

section
variable (r : Bool) (s : State)

@[simp] theorem finish_scl : (finish r s).scl = s.scl := rfl
@[simp] theorem finish_sda : (finish r s).sda = s.sda := rfl
@[simp] theorem finish_digits : (finish r s).digits = s.digits := rfl
@[simp] theorem finish_segbuf : (finish r s).segbuf = s.segbuf := rfl
@[simp] theorem finish_txt : (finish r s).txt = s.txt := rfl
@[simp] theorem finish_xbuf : (finish r s).xbuf = s.xbuf := rfl
@[simp] theorem finish_result : (finish r s).result = r := rfl
@[simp] theorem finish_busy : (finish r s).busy = false := rfl
@[simp] theorem finish_phase : (finish r s).phase = s.phase := rfl
@[simp] theorem finish_done : (finish r s).done = true := rfl
@[simp] theorem finish_op : (finish r s).op = s.op := rfl
@[simp] theorem finish_arg : (finish r s).arg = s.arg := rfl
@[simp] theorem finish_stage : (finish r s).stage = .idle := rfl
@[simp] theorem finish_byteIdx : (finish r s).byteIdx = s.byteIdx := rfl
@[simp] theorem finish_nbytes : (finish r s).nbytes = s.nbytes := rfl
@[simp] theorem finish_bitIdx : (finish r s).bitIdx = s.bitIdx := rfl
@[simp] theorem finish_stepIdx : (finish r s).stepIdx = 0 := rfl
@[simp] theorem finish_shift : (finish r s).shift = s.shift := rfl
@[simp] theorem finish_err : (finish r s).err = s.err := rfl
@[simp] theorem finish_ackv : (finish r s).ackv = s.ackv := rfl
@[simp] theorem finish_rx : (finish r s).rx = s.rx := rfl
@[simp] theorem finish_segOut : (finish r s).segOut = s.segOut := rfl
@[simp] theorem finish_trace : (finish r s).trace = s.trace := rfl
@[simp] theorem finish_host : (finish r s).host = s.host := rfl
@[simp] theorem finish_rxIn : (finish r s).rxIn = s.rxIn := rfl
@[simp] theorem finish_free : (finish r s).free = s.free := rfl

end

section
variable (s : State)

@[simp] theorem advance_scl : (advance s).scl = s.scl := rfl
@[simp] theorem advance_sda : (advance s).sda = s.sda := rfl
@[simp] theorem advance_digits : (advance s).digits = s.digits := rfl
@[simp] theorem advance_segbuf : (advance s).segbuf = s.segbuf := rfl
@[simp] theorem advance_txt : (advance s).txt = s.txt := rfl
@[simp] theorem advance_xbuf : (advance s).xbuf = s.xbuf := rfl
@[simp] theorem advance_result : (advance s).result = s.result := rfl
@[simp] theorem advance_busy : (advance s).busy = s.busy := rfl
@[simp] theorem advance_phase : (advance s).phase = s.phase := rfl
@[simp] theorem advance_done : (advance s).done = s.done := rfl
@[simp] theorem advance_op : (advance s).op = s.op := rfl
@[simp] theorem advance_arg : (advance s).arg = s.arg := rfl
@[simp] theorem advance_stage : (advance s).stage = s.stage := rfl
@[simp] theorem advance_byteIdx : (advance s).byteIdx = s.byteIdx := rfl
@[simp] theorem advance_nbytes : (advance s).nbytes = s.nbytes := rfl
@[simp] theorem advance_bitIdx : (advance s).bitIdx = s.bitIdx := rfl
@[simp] theorem advance_stepIdx : (advance s).stepIdx = s.stepIdx + 1 := rfl
@[simp] theorem advance_shift : (advance s).shift = s.shift := rfl
@[simp] theorem advance_err : (advance s).err = s.err := rfl
@[simp] theorem advance_ackv : (advance s).ackv = s.ackv := rfl
@[simp] theorem advance_rx : (advance s).rx = s.rx := rfl
@[simp] theorem advance_segOut : (advance s).segOut = s.segOut := rfl
@[simp] theorem advance_trace : (advance s).trace = s.trace := rfl
@[simp] theorem advance_host : (advance s).host = s.host := rfl
@[simp] theorem advance_rxIn : (advance s).rxIn = s.rxIn := rfl
@[simp] theorem advance_free : (advance s).free = s.free := rfl

end

section
variable (g : Stage) (s : State)

@[simp] theorem enter_scl : (enter g s).scl = s.scl := rfl
@[simp] theorem enter_sda : (enter g s).sda = s.sda := rfl
@[simp] theorem enter_digits : (enter g s).digits = s.digits := rfl
@[simp] theorem enter_segbuf : (enter g s).segbuf = s.segbuf := rfl
@[simp] theorem enter_txt : (enter g s).txt = s.txt := rfl
@[simp] theorem enter_xbuf : (enter g s).xbuf = s.xbuf := rfl
@[simp] theorem enter_result : (enter g s).result = s.result := rfl
@[simp] theorem enter_busy : (enter g s).busy = s.busy := rfl
@[simp] theorem enter_phase : (enter g s).phase = s.phase := rfl
@[simp] theorem enter_done : (enter g s).done = s.done := rfl
@[simp] theorem enter_op : (enter g s).op = s.op := rfl
@[simp] theorem enter_arg : (enter g s).arg = s.arg := rfl
@[simp] theorem enter_stage : (enter g s).stage = g := rfl
@[simp] theorem enter_byteIdx : (enter g s).byteIdx = s.byteIdx := rfl
@[simp] theorem enter_nbytes : (enter g s).nbytes = s.nbytes := rfl
@[simp] theorem enter_bitIdx : (enter g s).bitIdx = s.bitIdx := rfl
@[simp] theorem enter_stepIdx : (enter g s).stepIdx = 0 := rfl
@[simp] theorem enter_shift : (enter g s).shift = s.shift := rfl
@[simp] theorem enter_err : (enter g s).err = s.err := rfl
@[simp] theorem enter_ackv : (enter g s).ackv = s.ackv := rfl
@[simp] theorem enter_rx : (enter g s).rx = s.rx := rfl
@[simp] theorem enter_segOut : (enter g s).segOut = s.segOut := rfl
@[simp] theorem enter_trace : (enter g s).trace = s.trace := rfl
@[simp] theorem enter_host : (enter g s).host = s.host := rfl
@[simp] theorem enter_rxIn : (enter g s).rxIn = s.rxIn := rfl
@[simp] theorem enter_free : (enter g s).free = s.free := rfl

end

section
variable (s : State)

@[simp] theorem clearDone_scl : (clearDone s).scl = s.scl := rfl
@[simp] theorem clearDone_sda : (clearDone s).sda = s.sda := rfl
@[simp] theorem clearDone_digits : (clearDone s).digits = s.digits := rfl
@[simp] theorem clearDone_segbuf : (clearDone s).segbuf = s.segbuf := rfl
@[simp] theorem clearDone_txt : (clearDone s).txt = s.txt := rfl
@[simp] theorem clearDone_xbuf : (clearDone s).xbuf = s.xbuf := rfl
@[simp] theorem clearDone_result : (clearDone s).result = s.result := rfl
@[simp] theorem clearDone_busy : (clearDone s).busy = s.busy := rfl
@[simp] theorem clearDone_phase : (clearDone s).phase = s.phase := rfl
@[simp] theorem clearDone_done : (clearDone s).done = false := rfl
@[simp] theorem clearDone_op : (clearDone s).op = s.op := rfl
@[simp] theorem clearDone_arg : (clearDone s).arg = s.arg := rfl
@[simp] theorem clearDone_stage : (clearDone s).stage = s.stage := rfl
@[simp] theorem clearDone_byteIdx : (clearDone s).byteIdx = s.byteIdx := rfl
@[simp] theorem clearDone_nbytes : (clearDone s).nbytes = s.nbytes := rfl
@[simp] theorem clearDone_bitIdx : (clearDone s).bitIdx = s.bitIdx := rfl
@[simp] theorem clearDone_stepIdx : (clearDone s).stepIdx = s.stepIdx := rfl
@[simp] theorem clearDone_shift : (clearDone s).shift = s.shift := rfl
@[simp] theorem clearDone_err : (clearDone s).err = s.err := rfl
@[simp] theorem clearDone_ackv : (clearDone s).ackv = s.ackv := rfl
@[simp] theorem clearDone_rx : (clearDone s).rx = s.rx := rfl
@[simp] theorem clearDone_segOut : (clearDone s).segOut = s.segOut := rfl
@[simp] theorem clearDone_trace : (clearDone s).trace = s.trace := rfl
@[simp] theorem clearDone_host : (clearDone s).host = s.host := rfl
@[simp] theorem clearDone_rxIn : (clearDone s).rxIn = s.rxIn := rfl
@[simp] theorem clearDone_free : (clearDone s).free = s.free := rfl

end

section
variable (r : List HostAct) (s : State)

@[simp] theorem takeAction_scl : (takeAction r s).scl = s.scl := rfl
@[simp] theorem takeAction_sda : (takeAction r s).sda = s.sda := rfl
@[simp] theorem takeAction_digits : (takeAction r s).digits = s.digits := rfl
@[simp] theorem takeAction_segbuf : (takeAction r s).segbuf = s.segbuf := rfl
@[simp] theorem takeAction_txt : (takeAction r s).txt = s.txt := rfl
@[simp] theorem takeAction_xbuf : (takeAction r s).xbuf = s.xbuf := rfl
@[simp] theorem takeAction_result : (takeAction r s).result = s.result := rfl
@[simp] theorem takeAction_busy : (takeAction r s).busy = s.busy := rfl
@[simp] theorem takeAction_phase : (takeAction r s).phase = s.phase := rfl
@[simp] theorem takeAction_done : (takeAction r s).done = false := rfl
@[simp] theorem takeAction_op : (takeAction r s).op = s.op := rfl
@[simp] theorem takeAction_arg : (takeAction r s).arg = s.arg := rfl
@[simp] theorem takeAction_stage : (takeAction r s).stage = s.stage := rfl
@[simp] theorem takeAction_byteIdx : (takeAction r s).byteIdx = s.byteIdx := rfl
@[simp] theorem takeAction_nbytes : (takeAction r s).nbytes = s.nbytes := rfl
@[simp] theorem takeAction_bitIdx : (takeAction r s).bitIdx = s.bitIdx := rfl
@[simp] theorem takeAction_stepIdx : (takeAction r s).stepIdx = s.stepIdx := rfl
@[simp] theorem takeAction_shift : (takeAction r s).shift = s.shift := rfl
@[simp] theorem takeAction_err : (takeAction r s).err = s.err := rfl
@[simp] theorem takeAction_ackv : (takeAction r s).ackv = s.ackv := rfl
@[simp] theorem takeAction_rx : (takeAction r s).rx = s.rx := rfl
@[simp] theorem takeAction_segOut : (takeAction r s).segOut = s.segOut := rfl
@[simp] theorem takeAction_trace : (takeAction r s).trace = s.trace := rfl
@[simp] theorem takeAction_host : (takeAction r s).host = r := rfl
@[simp] theorem takeAction_rxIn : (takeAction r s).rxIn = s.rxIn := rfl
@[simp] theorem takeAction_free : (takeAction r s).free = s.free := rfl

end

section
variable (w : FetchWord) (s : State)

@[simp] theorem presentWord_scl : (presentWord w s).scl = s.scl := rfl
@[simp] theorem presentWord_sda : (presentWord w s).sda = s.sda := rfl
@[simp] theorem presentWord_digits : (presentWord w s).digits = s.digits := rfl
@[simp] theorem presentWord_segbuf : (presentWord w s).segbuf = s.segbuf := rfl
@[simp] theorem presentWord_txt : (presentWord w s).txt = s.txt := rfl
@[simp] theorem presentWord_xbuf : (presentWord w s).xbuf = s.xbuf := rfl
@[simp] theorem presentWord_result : (presentWord w s).result = s.result := rfl
@[simp] theorem presentWord_busy : (presentWord w s).busy = false := rfl
@[simp] theorem presentWord_phase : (presentWord w s).phase = s.phase := rfl
@[simp] theorem presentWord_done : (presentWord w s).done = s.done := rfl
@[simp] theorem presentWord_op : (presentWord w s).op = s.op := rfl
@[simp] theorem presentWord_arg : (presentWord w s).arg = s.arg := rfl
@[simp] theorem presentWord_stage : (presentWord w s).stage = .idle := rfl
@[simp] theorem presentWord_byteIdx : (presentWord w s).byteIdx = s.byteIdx := rfl
@[simp] theorem presentWord_nbytes : (presentWord w s).nbytes = s.nbytes := rfl
@[simp] theorem presentWord_bitIdx : (presentWord w s).bitIdx = s.bitIdx := rfl
@[simp] theorem presentWord_stepIdx : (presentWord w s).stepIdx = s.stepIdx := rfl
@[simp] theorem presentWord_shift : (presentWord w s).shift = s.shift := rfl
@[simp] theorem presentWord_err : (presentWord w s).err = s.err := rfl
@[simp] theorem presentWord_ackv : (presentWord w s).ackv = s.ackv := rfl
@[simp] theorem presentWord_rx : (presentWord w s).rx = s.rx := rfl
@[simp] theorem presentWord_segOut : (presentWord w s).segOut = s.segOut := rfl
@[simp] theorem presentWord_trace : (presentWord w s).trace = s.trace := rfl
@[simp] theorem presentWord_host : (presentWord w s).host = .word w :: s.host := rfl
@[simp] theorem presentWord_rxIn : (presentWord w s).rxIn = s.rxIn := rfl
@[simp] theorem presentWord_free : (presentWord w s).free = s.free := rfl

end

section
variable (bs : List Byte) (s : State)

@[simp] theorem loadXbuf_scl : (loadXbuf bs s).scl = s.scl := rfl
@[simp] theorem loadXbuf_sda : (loadXbuf bs s).sda = s.sda := rfl
@[simp] theorem loadXbuf_digits : (loadXbuf bs s).digits = s.digits := rfl
@[simp] theorem loadXbuf_segbuf : (loadXbuf bs s).segbuf = s.segbuf := rfl
@[simp] theorem loadXbuf_txt : (loadXbuf bs s).txt = s.txt := rfl
@[simp] theorem loadXbuf_result : (loadXbuf bs s).result = s.result := rfl
@[simp] theorem loadXbuf_busy : (loadXbuf bs s).busy = s.busy := rfl
@[simp] theorem loadXbuf_phase : (loadXbuf bs s).phase = s.phase := rfl
@[simp] theorem loadXbuf_done : (loadXbuf bs s).done = s.done := rfl
@[simp] theorem loadXbuf_op : (loadXbuf bs s).op = s.op := rfl
@[simp] theorem loadXbuf_arg : (loadXbuf bs s).arg = s.arg := rfl
@[simp] theorem loadXbuf_stage : (loadXbuf bs s).stage = s.stage := rfl
@[simp] theorem loadXbuf_byteIdx : (loadXbuf bs s).byteIdx = s.byteIdx := rfl
@[simp] theorem loadXbuf_nbytes : (loadXbuf bs s).nbytes = s.nbytes := rfl
@[simp] theorem loadXbuf_bitIdx : (loadXbuf bs s).bitIdx = s.bitIdx := rfl
@[simp] theorem loadXbuf_stepIdx : (loadXbuf bs s).stepIdx = s.stepIdx := rfl
@[simp] theorem loadXbuf_shift : (loadXbuf bs s).shift = s.shift := rfl
@[simp] theorem loadXbuf_err : (loadXbuf bs s).err = s.err := rfl
@[simp] theorem loadXbuf_ackv : (loadXbuf bs s).ackv = s.ackv := rfl
@[simp] theorem loadXbuf_rx : (loadXbuf bs s).rx = s.rx := rfl
@[simp] theorem loadXbuf_segOut : (loadXbuf bs s).segOut = s.segOut := rfl
@[simp] theorem loadXbuf_trace : (loadXbuf bs s).trace = s.trace := rfl
@[simp] theorem loadXbuf_host : (loadXbuf bs s).host = s.host := rfl
@[simp] theorem loadXbuf_rxIn : (loadXbuf bs s).rxIn = s.rxIn := rfl
@[simp] theorem loadXbuf_free : (loadXbuf bs s).free = s.free := rfl

end

section
variable (s : State)

@[simp] theorem raiseBoth_scl : (raiseBoth s).scl = true := rfl
@[simp] theorem raiseBoth_sda : (raiseBoth s).sda = true := rfl
@[simp] theorem raiseBoth_digits : (raiseBoth s).digits = s.digits := rfl
@[simp] theorem raiseBoth_segbuf : (raiseBoth s).segbuf = s.segbuf := rfl
@[simp] theorem raiseBoth_txt : (raiseBoth s).txt = s.txt := rfl
@[simp] theorem raiseBoth_xbuf : (raiseBoth s).xbuf = s.xbuf := rfl
@[simp] theorem raiseBoth_result : (raiseBoth s).result = s.result := rfl
@[simp] theorem raiseBoth_busy : (raiseBoth s).busy = s.busy := rfl
@[simp] theorem raiseBoth_phase : (raiseBoth s).phase = s.phase := rfl
@[simp] theorem raiseBoth_done : (raiseBoth s).done = s.done := rfl
@[simp] theorem raiseBoth_op : (raiseBoth s).op = s.op := rfl
@[simp] theorem raiseBoth_arg : (raiseBoth s).arg = s.arg := rfl
@[simp] theorem raiseBoth_stage : (raiseBoth s).stage = s.stage := rfl
@[simp] theorem raiseBoth_byteIdx : (raiseBoth s).byteIdx = s.byteIdx := rfl
@[simp] theorem raiseBoth_nbytes : (raiseBoth s).nbytes = s.nbytes := rfl
@[simp] theorem raiseBoth_bitIdx : (raiseBoth s).bitIdx = s.bitIdx := rfl
@[simp] theorem raiseBoth_stepIdx : (raiseBoth s).stepIdx = s.stepIdx := rfl
@[simp] theorem raiseBoth_shift : (raiseBoth s).shift = s.shift := rfl
@[simp] theorem raiseBoth_err : (raiseBoth s).err = s.err := rfl
@[simp] theorem raiseBoth_ackv : (raiseBoth s).ackv = s.ackv := rfl
@[simp] theorem raiseBoth_rx : (raiseBoth s).rx = s.rx.onRaise s.scl s.sda := rfl
@[simp] theorem raiseBoth_segOut : (raiseBoth s).segOut = s.segOut := rfl
@[simp] theorem raiseBoth_trace : (raiseBoth s).trace = s.trace ++ [.both1] := rfl
@[simp] theorem raiseBoth_host : (raiseBoth s).host = s.host := rfl
@[simp] theorem raiseBoth_rxIn : (raiseBoth s).rxIn = s.rxIn := rfl
@[simp] theorem raiseBoth_free : (raiseBoth s).free = s.free := rfl

end

section
variable (s : State)

@[simp] theorem endStart_scl : (endStart s).scl = s.scl := rfl
@[simp] theorem endStart_sda : (endStart s).sda = false := rfl
@[simp] theorem endStart_digits : (endStart s).digits = s.digits := rfl
@[simp] theorem endStart_segbuf : (endStart s).segbuf = s.segbuf := rfl
@[simp] theorem endStart_txt : (endStart s).txt = s.txt := rfl
@[simp] theorem endStart_xbuf : (endStart s).xbuf = s.xbuf := rfl
@[simp] theorem endStart_result : (endStart s).result = s.result := rfl
@[simp] theorem endStart_busy : (endStart s).busy = s.busy := rfl
@[simp] theorem endStart_phase : (endStart s).phase = true := rfl
@[simp] theorem endStart_done : (endStart s).done = s.done := rfl
@[simp] theorem endStart_op : (endStart s).op = s.op := rfl
@[simp] theorem endStart_arg : (endStart s).arg = s.arg := rfl
@[simp] theorem endStart_stage : (endStart s).stage = s.stage := rfl
@[simp] theorem endStart_byteIdx : (endStart s).byteIdx = s.byteIdx := rfl
@[simp] theorem endStart_nbytes : (endStart s).nbytes = s.nbytes := rfl
@[simp] theorem endStart_bitIdx : (endStart s).bitIdx = s.bitIdx := rfl
@[simp] theorem endStart_stepIdx : (endStart s).stepIdx = s.stepIdx := rfl
@[simp] theorem endStart_shift : (endStart s).shift = s.shift := rfl
@[simp] theorem endStart_err : (endStart s).err = s.err := rfl
@[simp] theorem endStart_ackv : (endStart s).ackv = s.ackv := rfl
@[simp] theorem endStart_rx : (endStart s).rx = s.rx.onStart := rfl
@[simp] theorem endStart_segOut : (endStart s).segOut = s.segOut := rfl
@[simp] theorem endStart_trace : (endStart s).trace = s.trace ++ [.dat0] := rfl
@[simp] theorem endStart_host : (endStart s).host = s.host := rfl
@[simp] theorem endStart_rxIn : (endStart s).rxIn = s.rxIn := rfl
@[simp] theorem endStart_free : (endStart s).free = s.free := rfl

end

section
variable (s : State)

@[simp] theorem endStop_scl : (endStop s).scl = s.scl := rfl
@[simp] theorem endStop_sda : (endStop s).sda = true := rfl
@[simp] theorem endStop_digits : (endStop s).digits = s.digits := rfl
@[simp] theorem endStop_segbuf : (endStop s).segbuf = s.segbuf := rfl
@[simp] theorem endStop_txt : (endStop s).txt = s.txt := rfl
@[simp] theorem endStop_xbuf : (endStop s).xbuf = s.xbuf := rfl
@[simp] theorem endStop_result : (endStop s).result = s.result := rfl
@[simp] theorem endStop_busy : (endStop s).busy = s.busy := rfl
@[simp] theorem endStop_phase : (endStop s).phase = false := rfl
@[simp] theorem endStop_done : (endStop s).done = s.done := rfl
@[simp] theorem endStop_op : (endStop s).op = s.op := rfl
@[simp] theorem endStop_arg : (endStop s).arg = s.arg := rfl
@[simp] theorem endStop_stage : (endStop s).stage = s.stage := rfl
@[simp] theorem endStop_byteIdx : (endStop s).byteIdx = s.byteIdx := rfl
@[simp] theorem endStop_nbytes : (endStop s).nbytes = s.nbytes := rfl
@[simp] theorem endStop_bitIdx : (endStop s).bitIdx = s.bitIdx := rfl
@[simp] theorem endStop_stepIdx : (endStop s).stepIdx = s.stepIdx := rfl
@[simp] theorem endStop_shift : (endStop s).shift = s.shift := rfl
@[simp] theorem endStop_err : (endStop s).err = s.err := rfl
@[simp] theorem endStop_ackv : (endStop s).ackv = s.ackv := rfl
@[simp] theorem endStop_rx : (endStop s).rx = s.rx.onStop := rfl
@[simp] theorem endStop_segOut : (endStop s).segOut = s.segOut := rfl
@[simp] theorem endStop_trace : (endStop s).trace = s.trace ++ [.dat1] := rfl
@[simp] theorem endStop_host : (endStop s).host = s.host := rfl
@[simp] theorem endStop_rxIn : (endStop s).rxIn = s.rxIn := rfl
@[simp] theorem endStop_free : (endStop s).free = s.free := rfl

end

section
variable (v : Level) (s : State)

@[simp] theorem sampleAt_scl : (sampleAt v s).scl = s.scl := rfl
@[simp] theorem sampleAt_sda : (sampleAt v s).sda = s.sda := rfl
@[simp] theorem sampleAt_digits : (sampleAt v s).digits = s.digits := rfl
@[simp] theorem sampleAt_segbuf : (sampleAt v s).segbuf = s.segbuf := rfl
@[simp] theorem sampleAt_txt : (sampleAt v s).txt = s.txt := rfl
@[simp] theorem sampleAt_xbuf : (sampleAt v s).xbuf = s.xbuf := rfl
@[simp] theorem sampleAt_result : (sampleAt v s).result = s.result := rfl
@[simp] theorem sampleAt_busy : (sampleAt v s).busy = s.busy := rfl
@[simp] theorem sampleAt_phase : (sampleAt v s).phase = s.phase := rfl
@[simp] theorem sampleAt_done : (sampleAt v s).done = s.done := rfl
@[simp] theorem sampleAt_op : (sampleAt v s).op = s.op := rfl
@[simp] theorem sampleAt_arg : (sampleAt v s).arg = s.arg := rfl
@[simp] theorem sampleAt_stage : (sampleAt v s).stage = s.stage := rfl
@[simp] theorem sampleAt_byteIdx : (sampleAt v s).byteIdx = s.byteIdx := rfl
@[simp] theorem sampleAt_nbytes : (sampleAt v s).nbytes = s.nbytes := rfl
@[simp] theorem sampleAt_bitIdx : (sampleAt v s).bitIdx = s.bitIdx := rfl
@[simp] theorem sampleAt_stepIdx : (sampleAt v s).stepIdx = s.stepIdx := rfl
@[simp] theorem sampleAt_shift : (sampleAt v s).shift = s.shift := rfl
@[simp] theorem sampleAt_err : (sampleAt v s).err = s.err := rfl
@[simp] theorem sampleAt_ackv : (sampleAt v s).ackv = (s.sda && v) := rfl
@[simp] theorem sampleAt_rx : (sampleAt v s).rx = s.rx := rfl
@[simp] theorem sampleAt_segOut : (sampleAt v s).segOut = s.segOut := rfl
@[simp] theorem sampleAt_trace : (sampleAt v s).trace = s.trace ++ [.sample (s.sda && v)] := rfl
@[simp] theorem sampleAt_host : (sampleAt v s).host = s.host := rfl
@[simp] theorem sampleAt_rxIn : (sampleAt v s).rxIn = s.rxIn := rfl
@[simp] theorem sampleAt_free : (sampleAt v s).free = s.free := rfl

end

section
variable (s : State)

@[simp] theorem dropLevel_scl : (dropLevel s).scl = s.scl := by unfold dropLevel; split <;> simp_all
@[simp] theorem dropLevel_sda : (dropLevel s).sda = s.sda := by unfold dropLevel; split <;> simp_all
@[simp] theorem dropLevel_digits : (dropLevel s).digits = s.digits := by unfold dropLevel; split <;> simp_all
@[simp] theorem dropLevel_segbuf : (dropLevel s).segbuf = s.segbuf := by unfold dropLevel; split <;> simp_all
@[simp] theorem dropLevel_txt : (dropLevel s).txt = s.txt := by unfold dropLevel; split <;> simp_all
@[simp] theorem dropLevel_xbuf : (dropLevel s).xbuf = s.xbuf := by unfold dropLevel; split <;> simp_all
@[simp] theorem dropLevel_result : (dropLevel s).result = s.result := by unfold dropLevel; split <;> simp_all
@[simp] theorem dropLevel_busy : (dropLevel s).busy = s.busy := by unfold dropLevel; split <;> simp_all
@[simp] theorem dropLevel_phase : (dropLevel s).phase = s.phase := by unfold dropLevel; split <;> simp_all
@[simp] theorem dropLevel_done : (dropLevel s).done = s.done := by unfold dropLevel; split <;> simp_all
@[simp] theorem dropLevel_op : (dropLevel s).op = s.op := by unfold dropLevel; split <;> simp_all
@[simp] theorem dropLevel_arg : (dropLevel s).arg = s.arg := by unfold dropLevel; split <;> simp_all
@[simp] theorem dropLevel_stage : (dropLevel s).stage = s.stage := by unfold dropLevel; split <;> simp_all
@[simp] theorem dropLevel_byteIdx : (dropLevel s).byteIdx = s.byteIdx := by unfold dropLevel; split <;> simp_all
@[simp] theorem dropLevel_nbytes : (dropLevel s).nbytes = s.nbytes := by unfold dropLevel; split <;> simp_all
@[simp] theorem dropLevel_bitIdx : (dropLevel s).bitIdx = s.bitIdx := by unfold dropLevel; split <;> simp_all
@[simp] theorem dropLevel_stepIdx : (dropLevel s).stepIdx = s.stepIdx := by unfold dropLevel; split <;> simp_all
@[simp] theorem dropLevel_shift : (dropLevel s).shift = s.shift := by unfold dropLevel; split <;> simp_all
@[simp] theorem dropLevel_err : (dropLevel s).err = s.err := by unfold dropLevel; split <;> simp_all
@[simp] theorem dropLevel_ackv : (dropLevel s).ackv = s.ackv := by unfold dropLevel; split <;> simp_all
@[simp] theorem dropLevel_rx : (dropLevel s).rx = s.rx := by unfold dropLevel; split <;> simp_all
@[simp] theorem dropLevel_segOut : (dropLevel s).segOut = s.segOut := by unfold dropLevel; split <;> simp_all
@[simp] theorem dropLevel_trace : (dropLevel s).trace = s.trace := by unfold dropLevel; split <;> simp_all
@[simp] theorem dropLevel_host : (dropLevel s).host = s.host := by unfold dropLevel; split <;> simp_all
@[simp] theorem dropLevel_rxIn : (dropLevel s).rxIn = s.rxIn.tail := by unfold dropLevel; split <;> simp_all

end

section
variable (sel : Bool) (i : BitVec 4) (b : Byte) (s : State)

@[simp] theorem bufWrite_scl : (bufWrite sel i b s).scl = s.scl := by cases sel <;> rfl
@[simp] theorem bufWrite_sda : (bufWrite sel i b s).sda = s.sda := by cases sel <;> rfl
@[simp] theorem bufWrite_digits : (bufWrite sel i b s).digits = s.digits := by cases sel <;> rfl
@[simp] theorem bufWrite_xbuf : (bufWrite sel i b s).xbuf = s.xbuf := by cases sel <;> rfl
@[simp] theorem bufWrite_result : (bufWrite sel i b s).result = s.result := by cases sel <;> rfl
@[simp] theorem bufWrite_busy : (bufWrite sel i b s).busy = s.busy := by cases sel <;> rfl
@[simp] theorem bufWrite_phase : (bufWrite sel i b s).phase = s.phase := by cases sel <;> rfl
@[simp] theorem bufWrite_done : (bufWrite sel i b s).done = s.done := by cases sel <;> rfl
@[simp] theorem bufWrite_op : (bufWrite sel i b s).op = s.op := by cases sel <;> rfl
@[simp] theorem bufWrite_arg : (bufWrite sel i b s).arg = s.arg := by cases sel <;> rfl
@[simp] theorem bufWrite_stage : (bufWrite sel i b s).stage = s.stage := by cases sel <;> rfl
@[simp] theorem bufWrite_byteIdx : (bufWrite sel i b s).byteIdx = s.byteIdx := by cases sel <;> rfl
@[simp] theorem bufWrite_nbytes : (bufWrite sel i b s).nbytes = s.nbytes := by cases sel <;> rfl
@[simp] theorem bufWrite_bitIdx : (bufWrite sel i b s).bitIdx = s.bitIdx := by cases sel <;> rfl
@[simp] theorem bufWrite_stepIdx : (bufWrite sel i b s).stepIdx = s.stepIdx := by cases sel <;> rfl
@[simp] theorem bufWrite_shift : (bufWrite sel i b s).shift = s.shift := by cases sel <;> rfl
@[simp] theorem bufWrite_err : (bufWrite sel i b s).err = s.err := by cases sel <;> rfl
@[simp] theorem bufWrite_ackv : (bufWrite sel i b s).ackv = s.ackv := by cases sel <;> rfl
@[simp] theorem bufWrite_rx : (bufWrite sel i b s).rx = s.rx := by cases sel <;> rfl
@[simp] theorem bufWrite_segOut : (bufWrite sel i b s).segOut = s.segOut := by cases sel <;> rfl
@[simp] theorem bufWrite_trace : (bufWrite sel i b s).trace = s.trace := by cases sel <;> rfl
@[simp] theorem bufWrite_host : (bufWrite sel i b s).host = s.host := by cases sel <;> rfl
@[simp] theorem bufWrite_rxIn : (bufWrite sel i b s).rxIn = s.rxIn := by cases sel <;> rfl
@[simp] theorem bufWrite_free : (bufWrite sel i b s).free = s.free := by cases sel <;> rfl

end

section
variable (e : PinEvent) (s : State)

@[simp] theorem emit_scl : (emit e s).scl = (s.lines.after e).scl := by cases e <;> rfl
@[simp] theorem emit_sda : (emit e s).sda = (s.lines.after e).sda := by cases e <;> rfl
@[simp] theorem emit_digits : (emit e s).digits = s.digits := by cases e <;> rfl
@[simp] theorem emit_segbuf : (emit e s).segbuf = s.segbuf := by cases e <;> rfl
@[simp] theorem emit_txt : (emit e s).txt = s.txt := by cases e <;> rfl
@[simp] theorem emit_xbuf : (emit e s).xbuf = s.xbuf := by cases e <;> rfl
@[simp] theorem emit_result : (emit e s).result = s.result := by cases e <;> rfl
@[simp] theorem emit_busy : (emit e s).busy = s.busy := by cases e <;> rfl
@[simp] theorem emit_phase : (emit e s).phase = s.phase := by cases e <;> rfl
@[simp] theorem emit_done : (emit e s).done = s.done := by cases e <;> rfl
@[simp] theorem emit_op : (emit e s).op = s.op := by cases e <;> rfl
@[simp] theorem emit_arg : (emit e s).arg = s.arg := by cases e <;> rfl
@[simp] theorem emit_stage : (emit e s).stage = s.stage := by cases e <;> rfl
@[simp] theorem emit_byteIdx : (emit e s).byteIdx = s.byteIdx := by cases e <;> rfl
@[simp] theorem emit_nbytes : (emit e s).nbytes = s.nbytes := by cases e <;> rfl
@[simp] theorem emit_bitIdx : (emit e s).bitIdx = s.bitIdx := by cases e <;> rfl
@[simp] theorem emit_stepIdx : (emit e s).stepIdx = s.stepIdx := by cases e <;> rfl
@[simp] theorem emit_shift : (emit e s).shift = s.shift := by cases e <;> rfl
@[simp] theorem emit_err : (emit e s).err = s.err := by cases e <;> rfl
@[simp] theorem emit_ackv : (emit e s).ackv = s.ackv := by cases e <;> rfl
@[simp] theorem emit_rx : (emit e s).rx = s.rx := by cases e <;> rfl
@[simp] theorem emit_segOut : (emit e s).segOut = s.segOut := by cases e <;> rfl
@[simp] theorem emit_trace : (emit e s).trace = s.trace ++ [e] := by cases e <;> rfl
@[simp] theorem emit_host : (emit e s).host = s.host := by cases e <;> rfl
@[simp] theorem emit_rxIn : (emit e s).rxIn = s.rxIn := by cases e <;> rfl
@[simp] theorem emit_free : (emit e s).free = s.free := by cases e <;> rfl

end

/-- The buffer port writes `SEGBUF` when `buf_sel` is 0, and nothing out of range (R51, R52). -/
@[simp] theorem bufWrite_seg_segbuf (i : BitVec 4) (b : Byte) (s : State) :
    (bufWrite false i b s).segbuf = s.segbuf.setIfInBounds i.toNat b := rfl
@[simp] theorem bufWrite_seg_txt (i : BitVec 4) (b : Byte) (s : State) : (bufWrite false i b s).txt = s.txt := rfl
/-- The buffer port writes `TXT` when `buf_sel` is 1, and nothing out of range (R51, R52). -/
@[simp] theorem bufWrite_chr_txt (i : BitVec 4) (b : Byte) (s : State) :
    (bufWrite true i b s).txt = s.txt.setIfInBounds i.toNat b := rfl
@[simp] theorem bufWrite_chr_segbuf (i : BitVec 4) (b : Byte) (s : State) :
    (bufWrite true i b s).segbuf = s.segbuf := rfl

/-- The serializer's operations leave the two lines as they are. -/
@[simp] theorem loadByte_lines (b : Byte) (s : State) : (loadByte b s).lines = s.lines := rfl
@[simp] theorem shiftBit_lines (s : State) : (shiftBit s).lines = s.lines := rfl
@[simp] theorem dropLevel_lines (s : State) : (dropLevel s).lines = s.lines := by simp [State.lines]
@[simp] theorem emit_lines (e : PinEvent) (s : State) : (emit e s).lines = s.lines.after e := by
  cases e <;> rfl

/-- An emission of several events, field by field. -/
theorem emits_nil (s : State) : emits [] s = s := rfl
theorem emits_cons (e : PinEvent) (es : List PinEvent) (s : State) : emits (e :: es) s = emits es (emit e s) := rfl

@[simp] theorem emits_trace (es : List PinEvent) (s : State) : (emits es s).trace = s.trace ++ es := by
  induction es generalizing s with
  | nil => simp [emits_nil]
  | cons e es ih => simp [emits_cons, ih]

@[simp] theorem emits_lines (es : List PinEvent) (s : State) : (emits es s).lines = es.foldl Lines.after s.lines := by
  induction es generalizing s with
  | nil => rfl
  | cons e es ih => simp [emits_cons, ih]

section
variable (es : List PinEvent) (s : State)

@[simp] theorem emits_digits : (emits es s).digits = s.digits := by
  induction es generalizing s with
  | nil => rfl
  | cons e es ih => simp [emits_cons, ih]
@[simp] theorem emits_segbuf : (emits es s).segbuf = s.segbuf := by
  induction es generalizing s with
  | nil => rfl
  | cons e es ih => simp [emits_cons, ih]
@[simp] theorem emits_txt : (emits es s).txt = s.txt := by
  induction es generalizing s with
  | nil => rfl
  | cons e es ih => simp [emits_cons, ih]
@[simp] theorem emits_xbuf : (emits es s).xbuf = s.xbuf := by
  induction es generalizing s with
  | nil => rfl
  | cons e es ih => simp [emits_cons, ih]
@[simp] theorem emits_result : (emits es s).result = s.result := by
  induction es generalizing s with
  | nil => rfl
  | cons e es ih => simp [emits_cons, ih]
@[simp] theorem emits_busy : (emits es s).busy = s.busy := by
  induction es generalizing s with
  | nil => rfl
  | cons e es ih => simp [emits_cons, ih]
@[simp] theorem emits_phase : (emits es s).phase = s.phase := by
  induction es generalizing s with
  | nil => rfl
  | cons e es ih => simp [emits_cons, ih]
@[simp] theorem emits_done : (emits es s).done = s.done := by
  induction es generalizing s with
  | nil => rfl
  | cons e es ih => simp [emits_cons, ih]
@[simp] theorem emits_op : (emits es s).op = s.op := by
  induction es generalizing s with
  | nil => rfl
  | cons e es ih => simp [emits_cons, ih]
@[simp] theorem emits_arg : (emits es s).arg = s.arg := by
  induction es generalizing s with
  | nil => rfl
  | cons e es ih => simp [emits_cons, ih]
@[simp] theorem emits_stage : (emits es s).stage = s.stage := by
  induction es generalizing s with
  | nil => rfl
  | cons e es ih => simp [emits_cons, ih]
@[simp] theorem emits_byteIdx : (emits es s).byteIdx = s.byteIdx := by
  induction es generalizing s with
  | nil => rfl
  | cons e es ih => simp [emits_cons, ih]
@[simp] theorem emits_nbytes : (emits es s).nbytes = s.nbytes := by
  induction es generalizing s with
  | nil => rfl
  | cons e es ih => simp [emits_cons, ih]
@[simp] theorem emits_bitIdx : (emits es s).bitIdx = s.bitIdx := by
  induction es generalizing s with
  | nil => rfl
  | cons e es ih => simp [emits_cons, ih]
@[simp] theorem emits_stepIdx : (emits es s).stepIdx = s.stepIdx := by
  induction es generalizing s with
  | nil => rfl
  | cons e es ih => simp [emits_cons, ih]
@[simp] theorem emits_shift : (emits es s).shift = s.shift := by
  induction es generalizing s with
  | nil => rfl
  | cons e es ih => simp [emits_cons, ih]
@[simp] theorem emits_err : (emits es s).err = s.err := by
  induction es generalizing s with
  | nil => rfl
  | cons e es ih => simp [emits_cons, ih]
@[simp] theorem emits_ackv : (emits es s).ackv = s.ackv := by
  induction es generalizing s with
  | nil => rfl
  | cons e es ih => simp [emits_cons, ih]
@[simp] theorem emits_rx : (emits es s).rx = s.rx := by
  induction es generalizing s with
  | nil => rfl
  | cons e es ih => simp [emits_cons, ih]
@[simp] theorem emits_segOut : (emits es s).segOut = s.segOut := by
  induction es generalizing s with
  | nil => rfl
  | cons e es ih => simp [emits_cons, ih]
@[simp] theorem emits_host : (emits es s).host = s.host := by
  induction es generalizing s with
  | nil => rfl
  | cons e es ih => simp [emits_cons, ih]
@[simp] theorem emits_rxIn : (emits es s).rxIn = s.rxIn := by
  induction es generalizing s with
  | nil => rfl
  | cons e es ih => simp [emits_cons, ih]
@[simp] theorem emits_free : (emits es s).free = s.free := by
  induction es generalizing s with
  | nil => rfl
  | cons e es ih => simp [emits_cons, ih]

end

/-- The levels still to come after one is used up. -/
@[simp] theorem comingLevel_dropLevel (s : State) (k : Nat) : comingLevel (dropLevel s) k = comingLevel s (k + 1) := by
  unfold comingLevel dropLevel
  cases h : s.rxIn with
  | nil => simp [Nat.add_assoc, Nat.add_comm 1 k]
  | cons a r => simp

end Sys2Proof.Machine
end

