-- ==== Sys2Proof/Laws/Ops.lean ====
section
/-! SUPPORT. One lemma per shared operation that says everything the operation does. -/

namespace Sys2Proof.Machine

/-- `s` after the events `es` of the transport, with the given lines: what `emits` does, as one update. -/
theorem emits_eq (es : List PinEvent) (s : State) :
    emits es s = { s with
      scl := (es.foldl Lines.after s.lines).scl
      sda := (es.foldl Lines.after s.lines).sda
      trace := s.trace ++ es } := by
  induction es generalizing s with
  | nil => simp [emits_nil, State.lines]
  | cons e es ih => rw [emits_cons, ih]; cases e <;> simp [emit, State.lines, Lines.after]

/-- The start condition `B w d` (R104). -/
theorem startCondition_eq (s : State) :
    startCondition s = { s with
      scl := true, sda := false, phase := true
      rx := (s.rx.onRaise s.scl s.sda).onStart
      trace := s.trace ++ startEvents } := by
  simp [startCondition, endStart, raiseBoth, emit, startEvents]

/-- The stop condition `d w C w D` (R105): both lines end high whatever they were. -/
theorem stopCondition_eq (s : State) :
    stopCondition s = { s with
      scl := true, sda := true, phase := false
      rx := s.rx.onStop
      trace := s.trace ++ stopEvents } := by
  simp [stopCondition, endStop, emits, emit, stopEvents]

/-- One bit cell (R106): the clock ends high, the data line holds the bit. -/
theorem bitCell_eq (s : State) :
    bitCell s = { s with
      scl := true, sda := s.shift.getLsbD 0
      shift := s.shift >>> 1, bitIdx := s.bitIdx + 1
      trace := s.trace ++ bitEvents (s.shift.getLsbD 0) } := by
  unfold bitCell shiftBit datEvent bitEvents
  cases s.shift.getLsbD 0 <;> simp [emits, emit]

/-- The acknowledgment cell (R107): the data line ends at the level sampled, the clock low. -/
theorem ackCell_eq (s : State) :
    ackCell s = { dropLevel s with
      scl := false, sda := comingLevel s 0, ackv := comingLevel s 0
      trace := s.trace ++ ackEvents (comingLevel s 0) } := by
  have hl : ∀ es : List PinEvent, comingLevel (emits es s) 0 = comingLevel s 0 := by
    intro es; simp [comingLevel]
  unfold ackCell
  simp only [hl]
  generalize comingLevel s 0 = a
  cases hr : s.rxIn <;> cases a <;> simp [dropLevel, hr, sampleAt, sdaIn, emits, emit, ackEvents]

/-- A byte (R108, R110): its events, the clock low, the data line and `ACKV` at the level sampled, `SHIFT` empty. -/
theorem sendByte_eq (b : Byte) (s : State) :
    sendByte b s = { dropLevel s with
      scl := false, sda := comingLevel s 0, ackv := comingLevel s 0
      shift := 0, bitIdx := 8
      rx := s.rx.onByte b (comingLevel s 0)
      trace := s.trace ++ byteEvents b (comingLevel s 0) } := by
  have hz : b >>> 1 >>> 1 >>> 1 >>> 1 >>> 1 >>> 1 >>> 1 >>> 1 = 0#8 := by revert b; decide
  unfold sendByte
  simp only [ackCell_eq, bitCells, bitCell_eq, loadByte]
  simp only [comingLevel, dropLevel]
  split <;> split <;>
    simp_all [byteEvents, wireBits, List.range, List.range.loop]

/-- The levels to come depend on the receiver's inputs alone. -/
theorem comingLevel_congr (s t : State) (hr : t.rxIn = s.rxIn) (hf : t.free = s.free) :
    comingLevel t = comingLevel s := by
  funext k; simp [comingLevel, hr, hf]

/-- The levels to come after a byte. -/
theorem comingLevel_sendByte (b : Byte) (s : State) (k : Nat) :
    comingLevel (sendByte b s) k = comingLevel s (k + 1) := by
  rw [← comingLevel_dropLevel, sendByte_eq]
  exact congrFun (comingLevel_congr _ _ rfl rfl) k

theorem someNack_succ (m : Nat) (f : Nat → Level) : someNack (m + 1) f = (f 0 || someNack m fun k => f (k + 1)) := by
  simp [someNack, List.range_succ_eq_map, List.any_map, Function.comp_def]

theorem sendBytes_cons (k : Nat) (b : Byte) (bs : List Byte) (s : State) :
    sendBytes k (b :: bs) s =
      let t := sendByte b { s with byteIdx := BitVec.ofNat 3 k }
      if comingLevel s 0 then ackFailure t else sendBytes (k + 1) bs t := by
  have h : (sendByte b { s with byteIdx := BitVec.ofNat 3 k }).ackv = comingLevel s 0 := by
    rw [sendByte_eq]; rfl
  simp [sendBytes, h]

/-- The events of the bytes of a frame (R140, R150). -/
theorem sendBytes_trace (k : Nat) (bs : List Byte) (s : State) :
    (sendBytes k bs s).trace = s.trace ++ bytesEvents bs (comingLevel s) := by
  induction bs generalizing k s with
  | nil => simp [sendBytes, bytesEvents]
  | cons b bs ih =>
    have ht : (sendByte b { s with byteIdx := BitVec.ofNat 3 k }).trace =
        s.trace ++ byteEvents b (comingLevel s 0) := by rw [sendByte_eq]; rfl
    have hc : comingLevel (sendByte b { s with byteIdx := BitVec.ofNat 3 k }) = fun k => comingLevel s (k + 1) :=
      funext fun j => comingLevel_sendByte b _ j
    rw [sendBytes_cons]
    cases h : comingLevel s 0 <;> simp [ih, ht, hc, h, bytesEvents]

/-- The error accumulator after the bytes of a frame (R140). -/
theorem sendBytes_err (k : Nat) (bs : List Byte) (s : State) :
    (sendBytes k bs s).err = (s.err || someNack bs.length (comingLevel s)) := by
  induction bs generalizing k s with
  | nil => simp [sendBytes, someNack]
  | cons b bs ih =>
    have he : (sendByte b { s with byteIdx := BitVec.ofNat 3 k }).err = s.err := by rw [sendByte_eq]; simp
    have hc : comingLevel (sendByte b { s with byteIdx := BitVec.ofNat 3 k }) = fun k => comingLevel s (k + 1) :=
      funext fun j => comingLevel_sendByte b _ j
    rw [sendBytes_cons, List.length_cons, someNack_succ]
    cases h : comingLevel s 0 <;> simp [ih, he, hc]

/-- `ACKV` after the bytes of a frame is the last level sampled: 1 exactly when the frame was cut (R32, R150). -/
theorem sendBytes_ackv (k : Nat) (b : Byte) (bs : List Byte) (s : State) :
    (sendBytes k (b :: bs) s).ackv = someNack (bs.length + 1) (comingLevel s) := by
  induction bs generalizing k s b with
  | nil =>
    rw [sendBytes_cons, someNack_succ]
    cases h : comingLevel s 0 <;> simp [sendBytes, sendByte_eq, someNack] <;> exact h
  | cons c bs ih =>
    have hc : comingLevel (sendByte b { s with byteIdx := BitVec.ofNat 3 k }) = fun k => comingLevel s (k + 1) :=
      funext fun j => comingLevel_sendByte b _ j
    have ha : (sendByte b { s with byteIdx := BitVec.ofNat 3 k }).ackv = comingLevel s 0 := by rw [sendByte_eq]; rfl
    rw [sendBytes_cons, someNack_succ]
    cases h : comingLevel s 0 <;> simp [ih, hc, ha, h]

/-- A byte of a frame tells the receiver its value and the level sampled. -/
theorem sendByte_rx (b : Byte) (i : BitVec 3) (s : State) :
    (sendByte b { s with byteIdx := i }).rx = s.rx.onByte b (comingLevel s 0) := by
  rw [sendByte_eq]; rfl

/-- When some byte is not acknowledged, nothing is known of the receiver after the bytes of a frame (R218; log 14). -/
theorem sendBytes_rx_nack (k : Nat) (bs : List Byte) (s : State) (h : someNack bs.length (comingLevel s) = true) :
    (sendBytes k bs s).rx = Receiver.forget := by
  induction bs generalizing k s with
  | nil => simp [someNack] at h
  | cons b bs ih =>
    have hc : comingLevel (sendByte b { s with byteIdx := BitVec.ofNat 3 k }) = fun k => comingLevel s (k + 1) :=
      funext fun j => comingLevel_sendByte b _ j
    rw [List.length_cons, someNack_succ] at h
    rw [sendBytes_cons]
    cases h0 : comingLevel s 0
    · exact ih _ _ (by simpa [h0, hc] using h)
    · simp [ackFailure, sendByte_rx, h0, Receiver.onByte]

/-- When every byte is acknowledged, the receiver is told the bytes in order (R55; log 14). -/
theorem sendBytes_rx_acked (k : Nat) (bs : List Byte) (s : State)
    (h : ∀ j, j < bs.length → comingLevel s j = false) :
    (sendBytes k bs s).rx = bs.foldl (fun r b => r.onByte b false) s.rx := by
  induction bs generalizing k s with
  | nil => rfl
  | cons b bs ih =>
    have h0 := h 0 (by simp)
    rw [sendBytes_cons]
    simp only [h0, Bool.false_eq_true, if_false, List.foldl_cons]
    rw [ih, sendByte_rx, h0]
    intro j hj
    rw [comingLevel_sendByte]
    exact h _ (by simp; omega)

/-- A reset leaves one of two receivers: nothing known outside a frame, or nothing known at all (R231). -/
theorem resetReceiver_cases (s : State) :
    (s.busy = false ∧ s.scl = true ∧ s.sda = true ∧ s.rx.place = .outside ∧
      resetReceiver s = Receiver.unknownAt .outside) ∨ resetReceiver s = Receiver.forget := by
  unfold resetReceiver
  split
  · simp_all
  · exact .inr rfl

/-- After a reset during an operation nothing is known of the receiver (R231). -/
theorem resetReceiver_busy (s : State) (h : s.busy = true) : resetReceiver s = Receiver.forget := by
  simp [resetReceiver, h]

theorem WireOnly.refl (s : State) : WireOnly s s := by constructor <;> first | rfl | (constructor <;> rfl)

theorem SameStores.trans {s t u : State} (h : SameStores s t) (g : SameStores t u) : SameStores s u where
  digits := g.digits.trans h.digits
  segbuf := g.segbuf.trans h.segbuf
  txt := g.txt.trans h.txt
  xbuf := g.xbuf.trans h.xbuf
  segOut := g.segOut.trans h.segOut
  host := g.host.trans h.host

theorem WireOnly.trans {s t u : State} (h : WireOnly s t) (g : WireOnly t u) : WireOnly s u where
  toSameStores := h.toSameStores.trans g.toSameStores
  result := g.result.trans h.result
  busy := g.busy.trans h.busy
  done := g.done.trans h.done
  op := g.op.trans h.op
  arg := g.arg.trans h.arg
  stage := g.stage.trans h.stage
  stepIdx := g.stepIdx.trans h.stepIdx

theorem sendByte_wireOnly (b : Byte) (s : State) : WireOnly s (sendByte b s) := by
  rw [sendByte_eq]
  constructor
  · constructor <;> simp
  all_goals simp

theorem sendBytes_wireOnly (k : Nat) (bs : List Byte) (s : State) : WireOnly s (sendBytes k bs s) := by
  induction bs generalizing k s with
  | nil => exact .refl s
  | cons b bs ih =>
    have h : WireOnly s (sendByte b { s with byteIdx := BitVec.ofNat 3 k }) :=
      WireOnly.trans (by constructor <;> first | rfl | (constructor <;> rfl)) (sendByte_wireOnly b _)
    rw [sendBytes_cons]
    cases comingLevel s 0
    · exact h.trans (ih _ _)
    · exact h.trans (by constructor <;> first | rfl | (constructor <;> rfl))

/-- The bytes of a frame keep the known display memory canonical. -/
theorem sendBytes_mem_wf (k : Nat) (bs : List Byte) (s : State) (h : s.rx.mem.wf = true) :
    (sendBytes k bs s).rx.mem.wf = true := by
  induction bs generalizing k s with
  | nil => exact h
  | cons b bs ih =>
    have hb : (sendByte b { s with byteIdx := BitVec.ofNat 3 k }).rx.mem.wf = true := by
      rw [sendByte_eq]; exact Receiver.onByte_wf _ _ _ h
    rw [sendBytes_cons]
    cases comingLevel s 0
    · exact ih _ _ hb
    · exact hb

/-- The levels a frame reads are those to come before it. -/
theorem comingLevel_frameStart (n : Nat) (s : State) :
    comingLevel (startCondition (beginFrame n s)) = comingLevel s := by
  rw [startCondition_eq]; exact comingLevel_congr _ _ rfl rfl

/-- A frame's events (R140): one start condition, the bytes sent, one stop condition. -/
theorem frame_trace (bs : List Byte) (s : State) :
    (frame bs s).trace = s.trace ++ frameEvents bs (comingLevel s) := by
  simp only [frame, stopCondition_eq, sendBytes_trace, comingLevel_frameStart]
  simp [startCondition_eq, frameEvents]

/-- A frame's error (R140): some byte was not acknowledged. -/
theorem frame_err (bs : List Byte) (s : State) :
    (frame bs s).err = someNack bs.length (comingLevel s) := by
  simp only [frame, stopCondition_eq, sendBytes_err, comingLevel_frameStart]
  simp [startCondition_eq]

/-- `ACKV` after a frame. -/
theorem frame_ackv (b : Byte) (bs : List Byte) (s : State) :
    (frame (b :: bs) s).ackv = someNack (bs.length + 1) (comingLevel s) := by
  simp only [frame, stopCondition_eq, sendBytes_ackv, comingLevel_frameStart]

/-- A frame ends with both lines high and `PHASE` 0 (R141 d), whatever was acknowledged. -/
theorem frame_scl (bs : List Byte) (s : State) : (frame bs s).scl = true := by simp [frame, stopCondition_eq]
theorem frame_sda (bs : List Byte) (s : State) : (frame bs s).sda = true := by simp [frame, stopCondition_eq]
theorem frame_phase (bs : List Byte) (s : State) : (frame bs s).phase = false := by simp [frame, stopCondition_eq]

/-- A frame writes the wire part of the state only. -/
theorem frame_wireOnly (bs : List Byte) (s : State) : WireOnly s (frame bs s) := by
  refine WireOnly.trans ?_ (WireOnly.trans (sendBytes_wireOnly 0 bs (startCondition (beginFrame bs.length s))) ?_)
  · rw [startCondition_eq]; constructor <;> first | rfl | (constructor <;> rfl)
  · rw [frame, stopCondition_eq]; constructor <;> first | rfl | (constructor <;> rfl)

theorem frame_mem_wf (bs : List Byte) (s : State) (h : s.rx.mem.wf = true) : (frame bs s).rx.mem.wf = true := by
  simp only [frame, stopCondition_eq]
  apply Receiver.onStop_wf
  apply sendBytes_mem_wf
  rw [startCondition_eq]
  exact Receiver.onStart_wf _ (Receiver.onRaise_wf _ _ _ h)

/-- A host command while the block is busy has no effect; else it runs to its end (R148). -/
theorem command_idle (op : BitVec 4) (arg : Byte) (body : State → State) (res : State → Bool) (s : State)
    (h : s.busy = false) :
    command op arg body res s = .next (finish (res (body (latch op arg s))) (body (latch op arg s))) := by
  simp [command, h]

theorem command_busy (op : BitVec 4) (arg : Byte) (body : State → State) (res : State → Bool) (s : State)
    (h : s.busy = true) : command op arg body res s = .next s := by
  simp [command, h]

/-- Everything a host command can do: it always answers a next state. -/
theorem command_cases (op : BitVec 4) (arg : Byte) (body : State → State) (res : State → Bool) (s : State) :
    (s.busy = true ∧ command op arg body res s = .next s) ∨
    (s.busy = false ∧
      command op arg body res s = .next (finish (res (body (latch op arg s))) (body (latch op arg s)))) := by
  cases h : s.busy
  · exact .inr ⟨rfl, command_idle op arg body res s h⟩
  · exact .inl ⟨rfl, command_busy op arg body res s h⟩

/-- The transmit buffer after a load: the new bytes first, then the old entries (R25). -/
theorem loadXbuf_entry (bs : List Byte) (s : State) (i : Nat) (h : i < 6) :
    (loadXbuf bs s).xbuf[i] = bs.getD i s.xbuf[i] := by
  have : i = 0 ∨ i = 1 ∨ i = 2 ∨ i = 3 ∨ i = 4 ∨ i = 5 := by omega
  rcases this with rfl | rfl | rfl | rfl | rfl | rfl <;> rfl

/-- The walk gives one byte per position (R187). -/
@[simp] theorem textWalk_length (seg : Byte → Byte) (txt : Vector Byte 12) (n d i : Nat) :
    (textWalk seg txt n d i).length = d := by
  induction d generalizing i with
  | zero => rfl
  | succ d ih => unfold textWalk; split <;> [split; skip] <;> simp [ih]

/-- Loads and latches use no level up. -/
@[simp] theorem comingLevel_latch (o : BitVec 4) (a : Byte) (s : State) : comingLevel (latch o a s) = comingLevel s :=
  comingLevel_congr _ _ rfl rfl
@[simp] theorem comingLevel_finish (r : Bool) (s : State) : comingLevel (finish r s) = comingLevel s :=
  comingLevel_congr _ _ rfl rfl
@[simp] theorem comingLevel_loadXbuf (bs : List Byte) (s : State) : comingLevel (loadXbuf bs s) = comingLevel s :=
  comingLevel_congr _ _ rfl rfl
@[simp] theorem comingLevel_raiseBoth (s : State) : comingLevel (raiseBoth s) = comingLevel s :=
  comingLevel_congr _ _ rfl rfl
@[simp] theorem comingLevel_startCondition (s : State) : comingLevel (startCondition s) = comingLevel s := by
  rw [startCondition_eq]; exact comingLevel_congr _ _ rfl rfl
@[simp] theorem comingLevel_stopCondition (s : State) : comingLevel (stopCondition s) = comingLevel s := by
  rw [stopCondition_eq]; exact comingLevel_congr _ _ rfl rfl

/-- The digit count of a legal state, for the burst's length (R22). -/
theorem digitsLegal_iff (s : State) : digitsLegal s = true ↔ 1 ≤ s.digits.toNat ∧ s.digits.toNat ≤ 6 := by
  simp [digitsLegal]

/-- A burst sends the address command and the bytes loaded, when there is one byte per position (R80). -/
theorem burstBytes_loadXbuf (bs : List Byte) (s : State) (hd : digitsLegal s = true)
    (hl : bs.length = s.digits.toNat) : burstBytes (loadXbuf bs s) = addrCmd :: bs := by
  rw [digitsLegal_iff] at hd
  have hx : (loadXbuf bs s).xbuf.toList.take bs.length = bs := by
    have h6 : bs.length ≤ 6 := by omega
    match bs, h6 with
    | [], _ => rfl
    | [_], _ => rfl
    | [_, _], _ => rfl
    | [_, _, _], _ => rfl
    | [_, _, _, _], _ => rfl
    | [_, _, _, _, _], _ => rfl
    | [_, _, _, _, _, _], _ => rfl
    | _ :: _ :: _ :: _ :: _ :: _ :: _ :: _, h => simp at h; omega
  simp only [burstBytes, loadXbuf_digits, ← hl, hx]

theorem rawBytes_length (s : State) (hd : digitsLegal s = true) : (rawBytes s).length = s.digits.toNat := by
  rw [digitsLegal_iff] at hd
  simp [rawBytes]; omega

theorem textBytes_length (n : Byte) (s : State) (hd : digitsLegal s = true) :
    (textBytes n s).length = s.digits.toNat := by
  rw [digitsLegal_iff] at hd
  simp [textBytes, maxDigits]; omega

theorem zeroBytes_length (s : State) (hd : digitsLegal s = true) : (zeroBytes s).length = s.digits.toNat := by
  rw [digitsLegal_iff] at hd
  simp [zeroBytes, maxDigits]; omega

end Sys2Proof.Machine
end

