-- ==== Sys2Proof/Laws/Events.lean ====
section
/-! SUPPORT. What one event step does to the trace and to the host's actions (10_state.md R29; 40_transport.md R111). -/

namespace Sys2Proof.Machine

/-- `t` follows `s` by one event, or by none when the operation has no event; the host's actions stay. -/
def OneEvent (s t : State) : Prop :=
  t.host = s.host ∧ if s.stage = .idle then t.trace = s.trace else ∃ e, t.trace = s.trace ++ [e]

/-- Loading a byte performs no event. -/
theorem startFrameByte_trace {k : Nat} {s t : State} (h : startFrameByte k s = some t) :
    t.host = s.host ∧ t.trace = s.trace := by
  unfold startFrameByte at h
  split at h <;> simp at h
  subst h; exact ⟨rfl, rfl⟩

/-- The end of a byte performs no event of its own. -/
theorem byteDone_trace {s t : State} (h : byteDone s = some t) : t.host = s.host ∧ t.trace = s.trace := by
  unfold byteDone at h
  split at h
  · simp at h
  · dsimp only at h
    split at h
    · simp at h; subst h; simp
    · split at h
      · simp at h; subst h; simp [enter, ackFailure]
      · split at h
        · simp at h; subst h; simp [enter]
        · simpa using startFrameByte_trace h

/-- An event step performs exactly one event, and none in stage 0. -/
theorem tick_oneEvent {r : Level} {s t : State} (h : tick r s = some t) : OneEvent s t := by
  unfold OneEvent
  unfold tick at h
  split at h
  · rename_i hst
    unfold tickSilent at h
    split at h
    · simp at h; subst h; simp [hst]
    · split at h <;> simp at h
      subst h; simp [hst]
  · rename_i hst
    split at h <;> simp at h
    subst h; simp [hst, enter, raiseBoth, emit]
  · rename_i hst
    unfold tickStart at h
    split at h <;> try simp at h
    · subst h; simp [hst, advance, raiseBoth, emit]
    · subst h; simp [hst, advance, emit]
    · split at h
      · simp at h; subst h; simp [hst, endStart, emit]
      · simp [hst, startFrameByte_trace h, endStart, emit]
  · rename_i hst
    split at h
    · unfold tickAck at h
      split at h <;> try (simp at h)
      any_goals (subst h; simp [hst, advance, emit]; done)
      · subst h; split <;> simp [hst, advance, sampleAt, emit]
      · obtain ⟨_, rfl⟩ := h; simp [hst, advance, emit]
      · simp [hst, byteDone_trace h, emit]
    · split at h
      · unfold tickBit at h
        split at h <;> simp at h <;> subst h
        all_goals simp [hst, advance, enter, shiftBit, emit, datEvent]
        split <;> simp
      · simp at h
  · rename_i hst
    unfold tickStop at h
    split at h <;> try simp at h
    any_goals (subst h; simp [hst, advance, emit])
    split at h
    · simp at h; subst h; simp [hst, endStop, emit]
    · split at h <;> simp at h
      subst h; simp [hst, endStop, emit]

/-- The same of a step that takes its level from the receiver's inputs. -/
theorem tickInput_oneEvent {s t : State} (h : tickInput s = some t) : OneEvent s t := by
  unfold tickInput at h
  split at h
  · cases hk : tick (comingLevel s 0) s with
    | none => simp [hk] at h
    | some u =>
      simp [hk] at h; subst h
      have hd : (dropLevel u).host = u.host ∧ (dropLevel u).trace = u.trace := by
        unfold dropLevel; split <;> exact ⟨rfl, rfl⟩
      simpa [OneEvent, hd] using tick_oneEvent hk
  · exact tick_oneEvent h

end Sys2Proof.Machine
end

