-- ==== Sys2Proof/Laws/Instructions.lean ====
section
/-! SUPPORT. One equation per instruction: what exec is, over the shared operations. -/

namespace Sys2Proof.Machine

theorem exec_tStart (a : Byte) (s : State) :
    exec (.tStart a) s = command opTStart a startCondition noError s := rfl
theorem exec_tStop (a : Byte) (s : State) :
    exec (.tStop a) s = command opTStop a stopCondition noError s := rfl
theorem exec_tByte (a : Byte) (s : State) :
    exec (.tByte a) s = command opTByte a (sendByte a) ackResult s := rfl
theorem exec_init (a : Byte) (s : State) :
    exec (.init a) s = command opInit a initEvents frameResult s := rfl
theorem exec_setBright (a : Byte) (s : State) :
    exec (.setBright a) s = command opSetBright a (frame [brightByte a]) frameResult s := rfl
theorem exec_setDigits (a : Byte) (s : State) :
    exec (.setDigits a) s = command opSetDigits a (setDigits a) noError s := rfl
theorem exec_writeRaw (a : Byte) (s : State) :
    exec (.writeRaw a) s = command opWriteRaw a rawBurst frameResult s := rfl
theorem exec_writeStr (a : Byte) (s : State) :
    exec (.writeStr a) s = command opWriteStr a (textBurst a) frameResult s := rfl
theorem exec_clear (a : Byte) (s : State) :
    exec (.clear a) s = command opClear a zeroBurst frameResult s := rfl
theorem exec_reserved0 (a : Byte) (s : State) :
    exec (.reserved0 a) s = command 0x0 a noEvents reservedResult s := rfl
theorem exec_reservedA (a : Byte) (s : State) :
    exec (.reservedA a) s = command 0xA a noEvents reservedResult s := rfl
theorem exec_reservedB (a : Byte) (s : State) :
    exec (.reservedB a) s = command 0xB a noEvents reservedResult s := rfl
theorem exec_reservedC (a : Byte) (s : State) :
    exec (.reservedC a) s = command 0xC a noEvents reservedResult s := rfl
theorem exec_reservedD (a : Byte) (s : State) :
    exec (.reservedD a) s = command 0xD a noEvents reservedResult s := rfl
theorem exec_reservedE (a : Byte) (s : State) :
    exec (.reservedE a) s = command 0xE a noEvents reservedResult s := rfl
theorem exec_reservedF (a : Byte) (s : State) :
    exec (.reservedF a) s = command 0xF a noEvents reservedResult s := rfl
theorem exec_seg (i : BitVec 4) (b : Byte) (s : State) :
    exec (.seg i b) s = .next (bufWrite false i b s) := rfl
theorem exec_chr (i : BitVec 4) (b : Byte) (s : State) :
    exec (.chr i b) s = .next (bufWrite true i b s) := rfl
theorem exec_wDataCmd (s : State) : exec .wDataCmd s = wireByte dataCmd s := rfl
theorem exec_wAddrCmd (s : State) : exec .wAddrCmd s = wireByte addrCmd s := rfl
theorem exec_wDispOff (s : State) : exec .wDispOff s = wireByte dispOff s := rfl
theorem exec_wDispOn (bbb : BitVec 3) (s : State) : exec (.wDispOn bbb) s = wireByte (dispOn bbb) s := rfl
theorem exec_segromMinus (s : State) : exec .segromMinus s = lookUp 0x2D s := rfl
theorem exec_segrom1 (s : State) : exec .segrom1 s = lookUp 0x31 s := rfl
theorem exec_segrom2 (s : State) : exec .segrom2 s = lookUp 0x32 s := rfl
theorem exec_segrom3 (s : State) : exec .segrom3 s = lookUp 0x33 s := rfl
theorem exec_segrom4 (s : State) : exec .segrom4 s = lookUp 0x34 s := rfl
theorem exec_segrom5 (s : State) : exec .segrom5 s = lookUp 0x35 s := rfl
theorem exec_segromSpace (s : State) : exec .segromSpace s = lookUp 0x20 s := rfl
theorem exec_segrom0 (s : State) : exec .segrom0 s = lookUp 0x30 s := rfl
theorem exec_segrom6 (s : State) : exec .segrom6 s = lookUp 0x36 s := rfl
theorem exec_segrom7 (s : State) : exec .segrom7 s = lookUp 0x37 s := rfl
theorem exec_segrom8 (s : State) : exec .segrom8 s = lookUp 0x38 s := rfl
theorem exec_segrom9 (s : State) : exec .segrom9 s = lookUp 0x39 s := rfl
theorem exec_segromA (lower : Bool) (s : State) :
    exec (.segromA lower) s = lookUp (letterCode 0x41 lower) s := rfl
theorem exec_segromB (lower : Bool) (s : State) :
    exec (.segromB lower) s = lookUp (letterCode 0x42 lower) s := rfl
theorem exec_segromC (lower : Bool) (s : State) :
    exec (.segromC lower) s = lookUp (letterCode 0x43 lower) s := rfl
theorem exec_segromD (lower : Bool) (s : State) :
    exec (.segromD lower) s = lookUp (letterCode 0x44 lower) s := rfl
theorem exec_segromE (lower : Bool) (s : State) :
    exec (.segromE lower) s = lookUp (letterCode 0x45 lower) s := rfl
theorem exec_segromF (lower : Bool) (s : State) :
    exec (.segromF lower) s = lookUp (letterCode 0x46 lower) s := rfl
theorem exec_segromG (lower : Bool) (s : State) :
    exec (.segromG lower) s = lookUp (letterCode 0x47 lower) s := rfl
theorem exec_segromH (lower : Bool) (s : State) :
    exec (.segromH lower) s = lookUp (letterCode 0x48 lower) s := rfl
theorem exec_segromI (lower : Bool) (s : State) :
    exec (.segromI lower) s = lookUp (letterCode 0x49 lower) s := rfl
theorem exec_segromJ (lower : Bool) (s : State) :
    exec (.segromJ lower) s = lookUp (letterCode 0x4A lower) s := rfl
theorem exec_segromL (lower : Bool) (s : State) :
    exec (.segromL lower) s = lookUp (letterCode 0x4C lower) s := rfl
theorem exec_segromN (lower : Bool) (s : State) :
    exec (.segromN lower) s = lookUp (letterCode 0x4E lower) s := rfl
theorem exec_segromO (lower : Bool) (s : State) :
    exec (.segromO lower) s = lookUp (letterCode 0x4F lower) s := rfl
theorem exec_segromP (lower : Bool) (s : State) :
    exec (.segromP lower) s = lookUp (letterCode 0x50 lower) s := rfl
theorem exec_segromQ (lower : Bool) (s : State) :
    exec (.segromQ lower) s = lookUp (letterCode 0x51 lower) s := rfl
theorem exec_segromR (lower : Bool) (s : State) :
    exec (.segromR lower) s = lookUp (letterCode 0x52 lower) s := rfl
theorem exec_segromS (lower : Bool) (s : State) :
    exec (.segromS lower) s = lookUp (letterCode 0x53 lower) s := rfl
theorem exec_segromT (lower : Bool) (s : State) :
    exec (.segromT lower) s = lookUp (letterCode 0x54 lower) s := rfl
theorem exec_segromU (lower : Bool) (s : State) :
    exec (.segromU lower) s = lookUp (letterCode 0x55 lower) s := rfl
theorem exec_segromY (lower : Bool) (s : State) :
    exec (.segromY lower) s = lookUp (letterCode 0x59 lower) s := rfl
theorem exec_segromOther (c : Byte) (s : State) : exec (.segromOther c) s = lookUp c s := rfl

/-- Everything an instruction can be: a host command, a buffer write, a byte of the wire, a look-up. -/
theorem exec_cases (i : Instr) (s : State) :
    (∃ op a body res, exec i s = command op a body res s) ∨ (∃ sel k b, exec i s = .next (bufWrite sel k b s)) ∨
    (∃ b, exec i s = wireByte b s) ∨ (∃ c, exec i s = lookUp c s) := by
  cases i
  case tStart a => exact .inl ⟨_, _, _, _, exec_tStart a s⟩
  case tStop a => exact .inl ⟨_, _, _, _, exec_tStop a s⟩
  case tByte a => exact .inl ⟨_, _, _, _, exec_tByte a s⟩
  case init a => exact .inl ⟨_, _, _, _, exec_init a s⟩
  case setBright a => exact .inl ⟨_, _, _, _, exec_setBright a s⟩
  case setDigits a => exact .inl ⟨_, _, _, _, exec_setDigits a s⟩
  case writeRaw a => exact .inl ⟨_, _, _, _, exec_writeRaw a s⟩
  case writeStr a => exact .inl ⟨_, _, _, _, exec_writeStr a s⟩
  case clear a => exact .inl ⟨_, _, _, _, exec_clear a s⟩
  case reserved0 a => exact .inl ⟨_, _, _, _, exec_reserved0 a s⟩
  case reservedA a => exact .inl ⟨_, _, _, _, exec_reservedA a s⟩
  case reservedB a => exact .inl ⟨_, _, _, _, exec_reservedB a s⟩
  case reservedC a => exact .inl ⟨_, _, _, _, exec_reservedC a s⟩
  case reservedD a => exact .inl ⟨_, _, _, _, exec_reservedD a s⟩
  case reservedE a => exact .inl ⟨_, _, _, _, exec_reservedE a s⟩
  case reservedF a => exact .inl ⟨_, _, _, _, exec_reservedF a s⟩
  case seg a b => exact .inr (.inl ⟨_, _, _, exec_seg a b s⟩)
  case chr a b => exact .inr (.inl ⟨_, _, _, exec_chr a b s⟩)
  case wDataCmd => exact .inr (.inr (.inl ⟨_, exec_wDataCmd s⟩))
  case wAddrCmd => exact .inr (.inr (.inl ⟨_, exec_wAddrCmd s⟩))
  case wDispOff => exact .inr (.inr (.inl ⟨_, exec_wDispOff s⟩))
  case wDispOn a => exact .inr (.inr (.inl ⟨_, exec_wDispOn a s⟩))
  case segromMinus => exact .inr (.inr (.inr ⟨_, exec_segromMinus s⟩))
  case segrom1 => exact .inr (.inr (.inr ⟨_, exec_segrom1 s⟩))
  case segrom2 => exact .inr (.inr (.inr ⟨_, exec_segrom2 s⟩))
  case segrom3 => exact .inr (.inr (.inr ⟨_, exec_segrom3 s⟩))
  case segrom4 => exact .inr (.inr (.inr ⟨_, exec_segrom4 s⟩))
  case segrom5 => exact .inr (.inr (.inr ⟨_, exec_segrom5 s⟩))
  case segromSpace => exact .inr (.inr (.inr ⟨_, exec_segromSpace s⟩))
  case segrom0 => exact .inr (.inr (.inr ⟨_, exec_segrom0 s⟩))
  case segrom6 => exact .inr (.inr (.inr ⟨_, exec_segrom6 s⟩))
  case segrom7 => exact .inr (.inr (.inr ⟨_, exec_segrom7 s⟩))
  case segrom8 => exact .inr (.inr (.inr ⟨_, exec_segrom8 s⟩))
  case segrom9 => exact .inr (.inr (.inr ⟨_, exec_segrom9 s⟩))
  case segromA a => exact .inr (.inr (.inr ⟨_, exec_segromA a s⟩))
  case segromB a => exact .inr (.inr (.inr ⟨_, exec_segromB a s⟩))
  case segromC a => exact .inr (.inr (.inr ⟨_, exec_segromC a s⟩))
  case segromD a => exact .inr (.inr (.inr ⟨_, exec_segromD a s⟩))
  case segromE a => exact .inr (.inr (.inr ⟨_, exec_segromE a s⟩))
  case segromF a => exact .inr (.inr (.inr ⟨_, exec_segromF a s⟩))
  case segromG a => exact .inr (.inr (.inr ⟨_, exec_segromG a s⟩))
  case segromH a => exact .inr (.inr (.inr ⟨_, exec_segromH a s⟩))
  case segromI a => exact .inr (.inr (.inr ⟨_, exec_segromI a s⟩))
  case segromJ a => exact .inr (.inr (.inr ⟨_, exec_segromJ a s⟩))
  case segromL a => exact .inr (.inr (.inr ⟨_, exec_segromL a s⟩))
  case segromN a => exact .inr (.inr (.inr ⟨_, exec_segromN a s⟩))
  case segromO a => exact .inr (.inr (.inr ⟨_, exec_segromO a s⟩))
  case segromP a => exact .inr (.inr (.inr ⟨_, exec_segromP a s⟩))
  case segromQ a => exact .inr (.inr (.inr ⟨_, exec_segromQ a s⟩))
  case segromR a => exact .inr (.inr (.inr ⟨_, exec_segromR a s⟩))
  case segromS a => exact .inr (.inr (.inr ⟨_, exec_segromS a s⟩))
  case segromT a => exact .inr (.inr (.inr ⟨_, exec_segromT a s⟩))
  case segromU a => exact .inr (.inr (.inr ⟨_, exec_segromU a s⟩))
  case segromY a => exact .inr (.inr (.inr ⟨_, exec_segromY a s⟩))
  case segromOther a => exact .inr (.inr (.inr ⟨_, exec_segromOther a s⟩))

end Sys2Proof.Machine
end

