-- ==== Sys2Proof/Laws/PerInstr.lean ====
section
/-! SUPPORT. RowPattern, one lemma per constructor: an instruction's word has its row's format and the bits its row fixes. -/

namespace Sys2Proof.Laws.RowPattern

/-- The word of `i` matches the row of `i` (spec/opcode_table.json, `match` and `mask`). -/
def Statement (i : Instr) : Prop := (rowOf i).Matches (encode i)

/-- The code bits of a command word are its four high bits. -/
theorem command_code (o : BitVec 4) (a : Byte) : (o ++ a).toNat &&& 0xF00 = o.toNat * 256 := by
  have h : ((o ++ a) &&& (0xF#4 ++ 0#8)) = o ++ 0#8 := by
    rw [BitVec.and_append]
    congr 1
    · revert o; decide
    · simp
  have h2 := congrArg BitVec.toNat h
  rw [BitVec.toNat_and] at h2
  rw [show (0xF00 : Nat) = (0xF#4 ++ 0#8).toNat from rfl, h2, BitVec.toNat_append]
  simp [Nat.shiftLeft_eq]

/-- The selection bit of a buffer write is its highest bit. -/
theorem buffer_select (c : BitVec 1) (i : BitVec 4) (b : Byte) :
    (c ++ i ++ b).toNat &&& 0x1000 = c.toNat * 4096 := by
  have h : ((c ++ i ++ b) &&& (1#1 ++ 0#4 ++ 0#8)) = c ++ 0#4 ++ 0#8 := by
    rw [BitVec.and_append, BitVec.and_append]
    congr 1
    · congr 1
      · revert c; decide
      · simp
    · simp
  have h2 := congrArg BitVec.toNat h
  rw [BitVec.toNat_and] at h2
  rw [show (0x1000 : Nat) = (1#1 ++ 0#4 ++ 0#8).toNat from rfl, h2]
  clear h h2
  revert c
  decide

theorem tStart (a : Byte) : Statement (.tStart a) := ⟨rfl, command_code _ a⟩

theorem tStop (a : Byte) : Statement (.tStop a) := ⟨rfl, command_code _ a⟩

theorem tByte (a : Byte) : Statement (.tByte a) := ⟨rfl, command_code _ a⟩

theorem init (a : Byte) : Statement (.init a) := ⟨rfl, command_code _ a⟩

theorem setBright (a : Byte) : Statement (.setBright a) := ⟨rfl, command_code _ a⟩

theorem setDigits (a : Byte) : Statement (.setDigits a) := ⟨rfl, command_code _ a⟩

theorem writeRaw (a : Byte) : Statement (.writeRaw a) := ⟨rfl, command_code _ a⟩

theorem writeStr (a : Byte) : Statement (.writeStr a) := ⟨rfl, command_code _ a⟩

theorem clear (a : Byte) : Statement (.clear a) := ⟨rfl, command_code _ a⟩

theorem reserved0 (a : Byte) : Statement (.reserved0 a) := ⟨rfl, command_code _ a⟩

theorem reservedA (a : Byte) : Statement (.reservedA a) := ⟨rfl, command_code _ a⟩

theorem reservedB (a : Byte) : Statement (.reservedB a) := ⟨rfl, command_code _ a⟩

theorem reservedC (a : Byte) : Statement (.reservedC a) := ⟨rfl, command_code _ a⟩

theorem reservedD (a : Byte) : Statement (.reservedD a) := ⟨rfl, command_code _ a⟩

theorem reservedE (a : Byte) : Statement (.reservedE a) := ⟨rfl, command_code _ a⟩

theorem reservedF (a : Byte) : Statement (.reservedF a) := ⟨rfl, command_code _ a⟩

theorem seg (i : BitVec 4) (b : Byte) : Statement (.seg i b) := ⟨rfl, buffer_select _ i b⟩

theorem chr (i : BitVec 4) (b : Byte) : Statement (.chr i b) := ⟨rfl, buffer_select _ i b⟩

theorem wDataCmd : Statement .wDataCmd := ⟨rfl, rfl⟩

theorem wAddrCmd : Statement .wAddrCmd := ⟨rfl, rfl⟩

theorem wDispOff : Statement .wDispOff := ⟨rfl, rfl⟩

theorem wDispOn (bbb : BitVec 3) : Statement (.wDispOn bbb) := ⟨rfl, by revert bbb; decide⟩

theorem segromMinus : Statement .segromMinus := ⟨rfl, rfl⟩

theorem segrom1 : Statement .segrom1 := ⟨rfl, rfl⟩

theorem segrom2 : Statement .segrom2 := ⟨rfl, rfl⟩

theorem segrom3 : Statement .segrom3 := ⟨rfl, rfl⟩

theorem segrom4 : Statement .segrom4 := ⟨rfl, rfl⟩

theorem segrom5 : Statement .segrom5 := ⟨rfl, rfl⟩

theorem segromSpace : Statement .segromSpace := ⟨rfl, rfl⟩

theorem segrom0 : Statement .segrom0 := ⟨rfl, rfl⟩

theorem segrom6 : Statement .segrom6 := ⟨rfl, rfl⟩

theorem segrom7 : Statement .segrom7 := ⟨rfl, rfl⟩

theorem segrom8 : Statement .segrom8 := ⟨rfl, rfl⟩

theorem segrom9 : Statement .segrom9 := ⟨rfl, rfl⟩

theorem segromA (lower : Bool) : Statement (.segromA lower) := ⟨rfl, by cases lower <;> rfl⟩

theorem segromB (lower : Bool) : Statement (.segromB lower) := ⟨rfl, by cases lower <;> rfl⟩

theorem segromC (lower : Bool) : Statement (.segromC lower) := ⟨rfl, by cases lower <;> rfl⟩

theorem segromD (lower : Bool) : Statement (.segromD lower) := ⟨rfl, by cases lower <;> rfl⟩

theorem segromE (lower : Bool) : Statement (.segromE lower) := ⟨rfl, by cases lower <;> rfl⟩

theorem segromF (lower : Bool) : Statement (.segromF lower) := ⟨rfl, by cases lower <;> rfl⟩

theorem segromG (lower : Bool) : Statement (.segromG lower) := ⟨rfl, by cases lower <;> rfl⟩

theorem segromH (lower : Bool) : Statement (.segromH lower) := ⟨rfl, by cases lower <;> rfl⟩

theorem segromI (lower : Bool) : Statement (.segromI lower) := ⟨rfl, by cases lower <;> rfl⟩

theorem segromJ (lower : Bool) : Statement (.segromJ lower) := ⟨rfl, by cases lower <;> rfl⟩

theorem segromL (lower : Bool) : Statement (.segromL lower) := ⟨rfl, by cases lower <;> rfl⟩

theorem segromN (lower : Bool) : Statement (.segromN lower) := ⟨rfl, by cases lower <;> rfl⟩

theorem segromO (lower : Bool) : Statement (.segromO lower) := ⟨rfl, by cases lower <;> rfl⟩

theorem segromP (lower : Bool) : Statement (.segromP lower) := ⟨rfl, by cases lower <;> rfl⟩

theorem segromQ (lower : Bool) : Statement (.segromQ lower) := ⟨rfl, by cases lower <;> rfl⟩

theorem segromR (lower : Bool) : Statement (.segromR lower) := ⟨rfl, by cases lower <;> rfl⟩

theorem segromS (lower : Bool) : Statement (.segromS lower) := ⟨rfl, by cases lower <;> rfl⟩

theorem segromT (lower : Bool) : Statement (.segromT lower) := ⟨rfl, by cases lower <;> rfl⟩

theorem segromU (lower : Bool) : Statement (.segromU lower) := ⟨rfl, by cases lower <;> rfl⟩

theorem segromY (lower : Bool) : Statement (.segromY lower) := ⟨rfl, by cases lower <;> rfl⟩

theorem segromOther (c : Byte) : Statement (.segromOther c) := ⟨rfl, Nat.and_zero _⟩

end Sys2Proof.Laws.RowPattern
end

