-- ==== Sys2Proof/Tests/Slice0.lean ====
section
/-! SUPPORT. The model's own tests: the smoke test of WellFormed, the words of every row, the vectors of
95_test_vectors.md (V<n>, X<n>, P<n> name them), and for every statement with hypotheses a witness that meets them. -/

namespace Sys2Proof.Tests

open Sys2Proof Sys2Proof.Machine

/-- A small state: idle lines, four digits, SEGBUF and XBUF as in V19 and V25, the receiver in data mode, and the given
levels to come. -/
def st (levels : List Level) : State :=
  { scl := true, sda := true, digits := 4
    segbuf := #v[0x06, 0xDB, 0x4F, 0x00, 0xAA, 0xBB]
    txt := #v[0x31, 0x32, 0x2E, 0x33, 0, 0, 0, 0, 0, 0, 0, 0]
    xbuf := #v[0x06, 0xDB, 0x4F, 0x00, 0x11, 0x22]
    result := false, busy := false, phase := false, done := false
    op := 0, arg := 0, stage := .idle, byteIdx := 0, nbytes := 1, bitIdx := 0, stepIdx := 0, shift := 0
    err := false, ackv := false
    rx := { place := .outside, dataMode := true, mem := [], display := none }
    segOut := 0, trace := [], host := [], rxIn := levels, free := 1 }

/-- The state an instruction answers, the state before when it stops. -/
def after (i : Instr) (s : State) : State :=
  match exec i s with
  | .next t => t
  | _ => s

/-- The state after `n` steps, the state before when the machine stops. -/
def runFor (n : Nat) (s : State) : State :=
  match Host.Core.run core n s with
  | .next t => t
  | _ => s

/-- A clock cycle with everything released. -/
def quiet : PortIn :=
  { rstN := true, cmdValid := false, cmdOp := 0, cmdArg := 0, bufWe := false, bufSel := false, bufAddr := 0,
    bufWdata := 0, rxSda := true }

/-! ### WellFormed -/

/-- R184: a code that has a row of its own is not OTHER's: minus, a digit, space, and a letter in either case. -/
theorem test_wellFormed_refuses_mapped_codes :
    WellFormed (.segromOther 0x2D) = false ∧ WellFormed (.segromOther 0x30) = false ∧
    WellFormed (.segromOther 0x39) = false ∧ WellFormed (.segromOther 0x20) = false ∧
    WellFormed (.segromOther 0x41) = false ∧ WellFormed (.segromOther 0x79) = false := by decide

/-- R183, R184: the point, the letter K and the code after 9 are OTHER's. -/
theorem test_wellFormed_takes_unmapped_codes :
    WellFormed (.segromOther 0x2E) = true ∧ WellFormed (.segromOther 0x4B) = true ∧
    WellFormed (.segromOther 0x3A) = true ∧ WellFormed (.segromOther 0x2F) = true := by decide

/-! ### Decoding: words written out from the encodings -/

/-- R70, R71: `cmd_op` in bits 11 to 8, `cmd_arg` in bits 7 to 0. -/
theorem test_decode_commands :
    decode (.cmd 0b000110100101) = .ok (.tStart 0xA5) ∧ decode (.cmd 0b001000000000) = .ok (.tStop 0) ∧
    decode (.cmd 0b001111000000) = .ok (.tByte 0xC0) ∧ decode (.cmd 0b010000000000) = .ok (.init 0) ∧
    decode (.cmd 0b010100000101) = .ok (.setBright 5) ∧ decode (.cmd 0b011000000010) = .ok (.setDigits 2) ∧
    decode (.cmd 0b011100000000) = .ok (.writeRaw 0) ∧ decode (.cmd 0b100000000100) = .ok (.writeStr 4) ∧
    decode (.cmd 0b100111111111) = .ok (.clear 0xFF) := by decide

/-- R73: the reserved codes. -/
theorem test_decode_reserved :
    decode (.cmd 0b000000000001) = .ok (.reserved0 1) ∧ decode (.cmd 0b101000000010) = .ok (.reservedA 2) ∧
    decode (.cmd 0b101100000011) = .ok (.reservedB 3) ∧ decode (.cmd 0b110000000100) = .ok (.reservedC 4) ∧
    decode (.cmd 0b110100000101) = .ok (.reservedD 5) ∧ decode (.cmd 0b111000000110) = .ok (.reservedE 6) ∧
    decode (.cmd 0b111100000111) = .ok (.reservedF 7) := by decide

/-- R51: `buf_sel` in bit 12, `buf_addr` in bits 11 to 8, `buf_wdata` in bits 7 to 0. -/
theorem test_decode_buffer_writes :
    decode (.buf 0b0010111011011) = .ok (.seg 5 0xDB) ∧ decode (.buf 0b1101100110001) = .ok (.chr 11 0x31) ∧
    decode (.buf 0b0111100000001) = .ok (.seg 15 1) := by decide

/-- R75 to R77; R78: any other byte is none. -/
theorem test_decode_wire_commands :
    decode (.wire 0b01000000) = .ok .wDataCmd ∧ decode (.wire 0b11000000) = .ok .wAddrCmd ∧
    decode (.wire 0b10000000) = .ok .wDispOff ∧ decode (.wire 0b10001000) = .ok (.wDispOn 0) ∧
    decode (.wire 0b10001111) = .ok (.wDispOn 7) ∧ decode (.wire 0b10000111) = .error (.notAWireCommand 0x87) ∧
    decode (.wire 0b10010000) = .error (.notAWireCommand 0x90) := by decide

/-- R181, R182: the codes with one case. -/
theorem test_decode_encoder_digits :
    decode (.code 0b00101101) = .ok .segromMinus ∧
    decode (.code 0b00110001) = .ok .segrom1 ∧
    decode (.code 0b00110010) = .ok .segrom2 ∧
    decode (.code 0b00110011) = .ok .segrom3 ∧
    decode (.code 0b00110100) = .ok .segrom4 ∧
    decode (.code 0b00110101) = .ok .segrom5 ∧
    decode (.code 0b00100000) = .ok .segromSpace ∧
    decode (.code 0b00110000) = .ok .segrom0 ∧
    decode (.code 0b00110110) = .ok .segrom6 ∧
    decode (.code 0b00110111) = .ok .segrom7 ∧
    decode (.code 0b00111000) = .ok .segrom8 ∧
    decode (.code 0b00111001) = .ok .segrom9 := by decide

/-- R183: bit 5 is the ignored case bit. -/
theorem test_decode_encoder_letters :
    decode (.code 0b01000001) = .ok (.segromA false) ∧ decode (.code 0b01100001) = .ok (.segromA true) ∧
    decode (.code 0b01000010) = .ok (.segromB false) ∧ decode (.code 0b01100010) = .ok (.segromB true) ∧
    decode (.code 0b01000011) = .ok (.segromC false) ∧ decode (.code 0b01100011) = .ok (.segromC true) ∧
    decode (.code 0b01000100) = .ok (.segromD false) ∧ decode (.code 0b01100100) = .ok (.segromD true) ∧
    decode (.code 0b01000101) = .ok (.segromE false) ∧ decode (.code 0b01100101) = .ok (.segromE true) ∧
    decode (.code 0b01000110) = .ok (.segromF false) ∧ decode (.code 0b01100110) = .ok (.segromF true) ∧
    decode (.code 0b01000111) = .ok (.segromG false) ∧ decode (.code 0b01100111) = .ok (.segromG true) ∧
    decode (.code 0b01001000) = .ok (.segromH false) ∧ decode (.code 0b01101000) = .ok (.segromH true) ∧
    decode (.code 0b01001001) = .ok (.segromI false) ∧ decode (.code 0b01101001) = .ok (.segromI true) ∧
    decode (.code 0b01001010) = .ok (.segromJ false) ∧ decode (.code 0b01101010) = .ok (.segromJ true) := by decide

/-- R183: the other ten letters. -/
theorem test_decode_encoder_letters_on :
    decode (.code 0b01001100) = .ok (.segromL false) ∧ decode (.code 0b01101100) = .ok (.segromL true) ∧
    decode (.code 0b01001110) = .ok (.segromN false) ∧ decode (.code 0b01101110) = .ok (.segromN true) ∧
    decode (.code 0b01001111) = .ok (.segromO false) ∧ decode (.code 0b01101111) = .ok (.segromO true) ∧
    decode (.code 0b01010000) = .ok (.segromP false) ∧ decode (.code 0b01110000) = .ok (.segromP true) ∧
    decode (.code 0b01010001) = .ok (.segromQ false) ∧ decode (.code 0b01110001) = .ok (.segromQ true) ∧
    decode (.code 0b01010010) = .ok (.segromR false) ∧ decode (.code 0b01110010) = .ok (.segromR true) ∧
    decode (.code 0b01010011) = .ok (.segromS false) ∧ decode (.code 0b01110011) = .ok (.segromS true) ∧
    decode (.code 0b01010100) = .ok (.segromT false) ∧ decode (.code 0b01110100) = .ok (.segromT true) ∧
    decode (.code 0b01010101) = .ok (.segromU false) ∧ decode (.code 0b01110101) = .ok (.segromU true) ∧
    decode (.code 0b01011001) = .ok (.segromY false) ∧ decode (.code 0b01111001) = .ok (.segromY true) := by decide

/-- R184: the point, a zero byte, a code above 0x7F and the letters outside the subset. -/
theorem test_decode_encoder_other :
    decode (.code 0b00101110) = .ok (.segromOther 0x2E) ∧ decode (.code 0b00000000) = .ok (.segromOther 0) ∧
    decode (.code 0b11000001) = .ok (.segromOther 0xC1) ∧ decode (.code 0b01001011) = .ok (.segromOther 0x4B) ∧
    decode (.code 0b01111010) = .ok (.segromOther 0x7A) := by decide

/-- The decoder on bytes names what it rejects. -/
theorem test_decodeBytes_rejects :
    decodeBytes .hostCmd [0x00] = .error .truncated ∧ decodeBytes .hostCmd [0x00, 0x10] = .error .excessBits ∧
    decodeBytes .bufWr [0xDB, 0x05, 0x77] = .ok (.seg 5 0xDB, [0x77]) := by decide

/-- The table's numbering: 12 and 13 bits, and both rounded up to whole bytes (log 16). -/
theorem test_decodeTableWord :
    decodeTableWord 12 0x505 = some (.setBright 5) ∧ decodeTableWord 13 0x505 = some (.seg 5 5) ∧
    decodeTableWord 16 0x505 = some (.setBright 5) ∧ decodeTableWord 16 0x1505 = some (.chr 5 5) ∧
    decodeTableWord 16 0x0005 = some (.seg 0 5) ∧ decodeTableWord 16 0x2000 = none ∧
    decodeTableWord 8 0x8C = some (.wDispOn 4) ∧ decodeTableWord 8 0x35 = some .segrom5 := by decide

/-! ### Transport (V1 to V9d) -/

/-- V2: `T_START` from lines (0,0). -/
theorem test_tStart :
    let s := { st [] with scl := false, sda := false }
    let t := after (.tStart 0) s
    t.trace = [.both1, .delay, .dat0] ∧
    lineStates s.lines t.trace = [⟨true, true⟩, ⟨true, true⟩, ⟨true, false⟩] ∧ t.phase = true ∧ t.result = false := by
  decide

/-- V5: `T_STOP` from idle lines. -/
theorem test_tStop :
    let s := st []
    let t := after (.tStop 0) s
    lineStates s.lines t.trace = [⟨true, false⟩, ⟨true, false⟩, ⟨true, false⟩, ⟨true, false⟩, ⟨true, true⟩] ∧
    t.phase = false ∧ t.result = false ∧ t.lines = ⟨true, true⟩ := by decide

/-- V9c: `0x01` puts its one 1 in the first cell. -/
theorem test_tByte_order :
    let s := { st [false] with sda := false }
    let t := after (.tByte 0x01) s
    lineStates s.lines (t.trace.take 14) =
      [⟨false, false⟩, ⟨false, false⟩, ⟨false, true⟩, ⟨false, true⟩, ⟨true, true⟩, ⟨true, true⟩, ⟨false, true⟩,
       ⟨false, true⟩, ⟨false, false⟩, ⟨false, false⟩, ⟨true, false⟩, ⟨true, false⟩, ⟨false, false⟩,
       ⟨false, false⟩] ∧
    t.trace.length = 59 ∧ t.result = false ∧ t.lines = ⟨false, false⟩ ∧ t.shift = 0 := by decide +kernel

/-- V9b: `0xA5`, not acknowledged. -/
theorem test_tByte_nack :
    let t := after (.tByte 0xA5) (st [true])
    t.trace.length = 58 ∧ t.trace.drop 48 =
      [.clk0, .dat1, .delay, .clk1, .delay, .delay, .sample true, .delay, .clk0, .delay] ∧
    t.result = true ∧ t.ackv = true ∧ t.lines = ⟨false, true⟩ := by decide +kernel

/-! ### Sequencer (V10 to V26) -/

/-- V12, V13: `INIT`. -/
theorem test_init :
    (after (.init 0) (st [false])).trace.length = 68 ∧ (after (.init 0) (st [false])).result = false ∧
    (after (.init 0) (st [true])).trace.length = 67 ∧ (after (.init 0) (st [true])).result = true := by decide +kernel

/-- V11: `BRIGHT 0`, not acknowledged: the whole trace. -/
theorem test_setBright_off :
    (after (.setBright 0) (st [true])).trace =
      [.both1, .delay, .dat0] ++ (List.replicate 7 [.clk0, .delay, .dat0, .delay, .clk1, .delay]).flatten ++
      [.clk0, .delay, .dat1, .delay, .clk1, .delay] ++
      [.clk0, .dat1, .delay, .clk1, .delay, .delay, .sample true, .delay, .clk0, .delay] ++
      [.dat0, .delay, .clk1, .delay, .dat1] := by decide +kernel

/-- R143's table: levels 0 to 9 and 255. -/
theorem test_setBright_bytes :
    [0, 1, 2, 3, 4, 5, 6, 7, 8, 9, 255].map brightByte =
      [0x80, 0x88, 0x89, 0x8A, 0x8B, 0x8C, 0x8D, 0x8E, 0x8F, 0x8F, 0x8F] := by decide

/-- V17, V18, X5: `DIGITS`. -/
theorem test_setDigits :
    [0, 1, 6, 7, 200, 255].map (fun c => (after (.setDigits c) (st [])).digits) = [1, 1, 6, 6, 6, 6] := by decide

/-- V21 (X4): the third byte is not acknowledged. -/
theorem test_writeRaw_cut :
    let t := after (.writeRaw 0) (st [false, false, true])
    t.trace.length = 184 ∧ t.trace.countP PinEvent.isSample = 3 ∧ t.result = true ∧ t.lines = ⟨true, true⟩ ∧
    t.phase = false ∧ t.xbuf = #v[0x06, 0xDB, 0x4F, 0x00, 0x11, 0x22] := by decide +kernel

/-- V19: all acknowledged; the bytes land at the receiver's addresses 0 to 3 (R55). -/
theorem test_writeRaw_whole :
    let t := after (.writeRaw 0) (st [false, false, false, false, false])
    t.trace.length = 303 ∧ t.trace.count .delay = 148 ∧ t.result = false ∧
    t.rx.mem = [(0, 0x06), (1, 0xDB), (2, 0x4F), (3, 0x00)] := by decide +kernel

/-- V25: `CLEAR` keeps `XBUF[4..5]` and `SEGBUF`. -/
theorem test_clear :
    let t := after (.clear 0) (st [false, false, false, false, false])
    t.trace.length = 303 ∧ t.result = false ∧ t.xbuf = #v[0, 0, 0, 0, 0x11, 0x22] ∧
    t.segbuf = (st []).segbuf := by decide +kernel

/-- V26: the last byte fails. -/
theorem test_clear_cut :
    let t := after (.clear 0) { st [false, true] with digits := 2 }
    t.trace.length = 125 ∧ t.result = true ∧ t.xbuf = #v[0, 0, 0x4F, 0x00, 0x11, 0x22] := by decide +kernel

/-! ### Encoder (V30 to V55) -/

/-- V30 (X1): "12.3" with four digits. -/
theorem test_writeStr :
    let t := after (.writeStr 4) (st [false, false, false, false, false])
    t.xbuf = #v[0x06, 0xDB, 0x4F, 0x00, 0x11, 0x22] ∧ t.trace.length = 303 ∧ t.result = false := by decide +kernel

/-- V55: the length cuts the text; the point at index 2 is not seen. -/
theorem test_writeStr_length :
    (after (.writeStr 2) (st [true])).xbuf = #v[0x06, 0x5B, 0x00, 0x00, 0x11, 0x22] := by decide +kernel

/-- The walk with the default table (G3, G4), as the vectors marked so ask. -/
def walk (alpha : Bool) (txt : Vector Byte 12) (n d : Nat) : List Byte :=
  textWalk (segWith alpha Config.defaultGlyph) txt n d 0

/-- V36, V37, V39, V40, V41, V42, V43: points and a zero byte. -/
theorem test_walk_points :
    walk false #v[0x31, 0x32, 0x33, 0x34, 0x2E, 0, 0, 0, 0, 0, 0, 0] 5 4 = [0x06, 0x5B, 0x4F, 0xE6] ∧
    walk false #v[0x31, 0x2E, 0x32, 0x2E, 0x33, 0x2E, 0x34, 0x2E, 0, 0, 0, 0] 8 4 = [0x86, 0xDB, 0xCF, 0xE6] ∧
    walk false #v[0x2D, 0x2E, 0x2D, 0, 0, 0, 0, 0, 0, 0, 0, 0] 3 2 = [0xC0, 0x40] ∧
    walk false #v[0x2E, 0, 0, 0, 0, 0, 0, 0, 0, 0, 0, 0] 1 2 = [0x00, 0x00] ∧
    walk false #v[0x2E, 0x2E, 0, 0, 0, 0, 0, 0, 0, 0, 0, 0] 2 2 = [0x80, 0x00] ∧
    walk false #v[0x31, 0x2E, 0x2E, 0x32, 0, 0, 0, 0, 0, 0, 0, 0] 4 4 = [0x86, 0x00, 0x5B, 0x00] ∧
    walk false #v[0x31, 0, 0x32, 0, 0, 0, 0, 0, 0, 0, 0, 0] 3 3 = [0x06, 0x00, 0x5B] := by decide

/-- V45, V46 (default table): the digits the source does not give. -/
theorem test_walk_digits :
    walk false #v[0x30, 0x2E, 0x36, 0x37, 0x38, 0x39, 0, 0, 0, 0, 0, 0] 6 6 = [0xBF, 0x7D, 0x07, 0x7F, 0x6F, 0x00] ∧
    walk false #v[0x38, 0x2E, 0x38, 0x2E, 0x38, 0x2E, 0x38, 0x2E, 0x38, 0x2E, 0x38, 0x2E] 12 6 =
      [0xFF, 0xFF, 0xFF, 0xFF, 0xFF, 0xFF] := by decide

/-- V47, V49, V50, V51, V53 (default table): letters. -/
theorem test_walk_letters :
    walk false #v[0x61, 0x62, 0, 0, 0, 0, 0, 0, 0, 0, 0, 0] 2 2 = [0x00, 0x00] ∧
    walk true #v[0x41, 0x62, 0x43, 0, 0, 0, 0, 0, 0, 0, 0, 0] 3 3 = [0x77, 0x7C, 0x39] ∧
    walk true #v[0x61, 0x42, 0x63, 0, 0, 0, 0, 0, 0, 0, 0, 0] 3 3 = [0x77, 0x7C, 0x39] ∧
    walk true #v[0x4B, 0x39, 0, 0, 0, 0, 0, 0, 0, 0, 0, 0] 2 2 = [0x00, 0x6F] ∧
    walk true #v[0x48, 0x45, 0x4C, 0x50, 0, 0, 0, 0, 0, 0, 0, 0] 4 4 = [0x76, 0x79, 0x38, 0x73] ∧
    walk true #v[0x31, 0x2E, 0x35, 0x56, 0, 0, 0, 0, 0, 0, 0, 0] 4 4 = [0x86, 0x6D, 0x00, 0x00] := by decide

/-- R181: a look-up gives the entry and changes nothing else. -/
theorem test_lookUp : after .segrom2 (st []) = { st [] with segOut := 0x5B } := by decide

/-! ### Buffers, reserved codes, wire commands -/

/-- R51, R52: the last entry of `SEGBUF` is 5, of `TXT` 11. -/
theorem test_buffer_writes :
    (after (.seg 5 0x77) (st [])).segbuf = #v[0x06, 0xDB, 0x4F, 0x00, 0xAA, 0x77] ∧
    after (.seg 6 0x77) (st []) = st [] ∧
    (after (.chr 11 0x77) (st [])).txt = #v[0x31, 0x32, 0x2E, 0x33, 0, 0, 0, 0, 0, 0, 0, 0x77] ∧
    after (.chr 12 0x77) (st []) = st [] := by decide

/-- R73: a reserved code performs no event and gives 1. -/
theorem test_reserved :
    (after (.reserved0 3) (st [])).result = true ∧ (after (.reserved0 3) (st [])).trace = [] ∧
    (after (.reservedF 3) (st [])).result = true ∧ (after (.reservedF 3) (st [])).digits = 4 := by decide

/-- R77: `0x8C` on the wire (X3), its bits least significant first, and what the receiver takes. -/
theorem test_wDispOn :
    let s := after (.tStart 0) (st [false])
    let t := after (.wDispOn 4) s
    wireBits 0x8C = [false, false, true, true, false, false, false, true] ∧
    t.trace = s.trace ++ byteEvents 0x8C false ∧ t.rx.display = some (true, 4) := by decide +kernel

/-! ### Host interface -/

/-- R148: a command word is accepted, its events come one per cycle, and the operation ends with `done`. -/
theorem test_ports_tStart :
    let p := { quiet with cmdValid := true, cmdOp := 1 }
    let s := { st [] with host := [.clk p, .clk p, .clk p, .clk p] }
    let t := runFor 4 s
    t.trace = [.both1, .delay, .dat0] ∧ t.busy = false ∧ t.done = true ∧ t.phase = true ∧ t.lines = ⟨true, false⟩ ∧
    (runFor 3 s).busy = true ∧ (runFor 3 s).done = false := by decide

/-- R84, X1: the script `STR "12.3"` from a blank text. -/
theorem test_strScript :
    let s := { st [true] with txt := #v[0, 0, 0, 0, 0, 0, 0, 0, 0, 0, 0, 0], host := strScript [0x31, 0x32, 0x2E, 0x33] }
    (runFor 5 s).xbuf = #v[0x06, 0xDB, 0x4F, 0x00, 0x11, 0x22] ∧ (runFor 5 s).result = true := by decide +kernel

/-- R84, R52: `RAW` with eight bytes keeps the first six. -/
theorem test_rawScript :
    let s := { st [true] with host := rawScript [1, 2, 3, 4, 5, 6, 7, 8] }
    (runFor 9 s).segbuf = #v[1, 2, 3, 4, 5, 6] ∧ (runFor 9 s).xbuf = #v[1, 2, 3, 4, 0x11, 0x22] ∧
    (runFor 9 s).host = [] := by decide +kernel

/-- R148: `XBUF` is loaded in the cycle of acceptance, above `DIGITS` it stays. -/
theorem test_ports_load :
    let s := { st [] with digits := 2, host := [.clk { quiet with cmdValid := true, cmdOp := 9 }] }
    (runFor 1 s).xbuf = #v[0, 0, 0x4F, 0x00, 0x11, 0x22] ∧ (runFor 1 s).trace = [] := by decide

/-- R231: a reset in the middle of a `T_BYTE` sent with no frame open leaves the receiver unknown; one between operations
with idle lines leaves it outside a frame. -/
theorem test_reset_receiver :
    let p := { quiet with cmdValid := true, cmdOp := 3, cmdArg := 0x40 }
    let s := { st [] with host := [.clk p, .clk p, .clk { quiet with rstN := false }] }
    (runFor 2 s).rx.place = .outside ∧ (runFor 2 s).busy = true ∧ (runFor 3 s).rx = Receiver.forget ∧
    (runFor 1 { st [] with host := [.clk { quiet with rstN := false }] }).rx = Receiver.unknownAt .outside := by decide

/-- The word placed by `withFetchWord` runs in the very next step. -/
theorem test_withFetchWord :
    (runFor 1 ((st []).withFetchWord 16 0x602)).digits = 2 ∧ (runFor 1 ((st []).withFetchWord 16 0x602)).host = [] := by
  decide

/-- X6: the symbols of `BRIGHT 0`, acknowledged. -/
theorem test_wireView :
    wireView ⟨true, true⟩ ((frameEvents [0x80] fun _ => false).zip
      (List.replicate 51 true ++ List.replicate 10 false ++ List.replicate 6 true)) =
      [.start, .rise false, .rise false, .rise false, .rise false, .rise false, .rise false, .rise false, .rise true,
       .rise false, .rise false, .stop] := by decide +kernel

/-! ### Witnesses: a state and operands that meet the hypotheses of each statement -/

/-- An operation in progress: `T_START` just accepted. -/
def running : State := accept 1 0 (st [])

theorem st_inv : (st []).Inv := ⟨by decide, by decide, by decide⟩
theorem running_inv : running.Inv := ⟨by decide, by decide, by decide⟩

theorem witness_DecodeOfEncode :
    WellFormed (.segromOther 0x2E) = true ∧ WellFormed (.seg 15 0xFF) = true := by decide

theorem witness_EncodeOfDecode :
    decode (.wire 0x8F) = .ok (.wDispOn 7) ∧ decode (.code 0xFF) = .ok (.segromOther 0xFF) := by decide

theorem witness_UndefinedWireByteIsRefused :
    (st []).busy = false ∧ { st [] with host := [.word (.wire 0x87)] }.host = .word (.wire 0x87) :: [] ∧
    (0x87 : Byte) ≠ 0x40 ∧ (0x87 : Byte) ≠ 0xC0 ∧ (0x87 : Byte) ≠ 0x80 ∧ (0x87 : Byte).toNat < 0x88 ∧ 0x8F < (0x90 : Byte).toNat := by decide

theorem witness_StepRunsTheDecodedInstruction :
    (st []).busy = false ∧ { st [] with host := [line (.setDigits 2)] }.host = .word (.cmd 0x602) :: [] ∧
    decode (.cmd 0x602) = .ok (.setDigits 2) := by decide

theorem witness_IdleBlockWaits :
    (st []).busy = false ∧ (st []).host = [] := by decide

theorem witness_HostWordIsHeldWhileBusy :
    running.busy = true ∧ (∀ p rest, running.host ≠ .clk p :: rest) ∧ (∃ t, step running = .next t) ∧
    running.stage ≠ .idle ∧ (accept 6 3 (st [])).stage = .idle := ⟨by decide, nofun, ⟨_, rfl⟩, by decide, by decide⟩

theorem witness_CommandWordIsIgnoredWhileBusy :
    running.busy = true := by decide

theorem witness_TStartEmitsTheStartCondition :
    (st []).busy = false := by decide

theorem witness_TStopEmitsTheStopCondition :
    (st []).busy = false := by decide

theorem witness_TByteSendsItsBitsAndSamplesOnce :
    (st []).busy = false := by decide

theorem witness_InitSendsTheDataCommand :
    (st []).busy = false := by decide

theorem witness_SetBrightSendsTheClampedLevel :
    (st []).busy = false := by decide

theorem witness_SetDigitsClampsTheCount :
    (st []).busy = false := by decide

theorem witness_ReservedCodesOnlySetTheResult :
    (st []).busy = false := by decide

theorem witness_WireCommandBytesAreSentLikeAnyByte :
    (st []).busy = false := by decide

theorem witness_DelayAndEventCounts :
    (∀ k, k ≤ [0x06, (0xDB : Byte)].length → (fun _ => false : Nat → Level) k = false) ∧ (st []).busy = false := by decide

theorem witness_FailedByteThenStopEndsIdleHigh :
    (st [true]).busy = false ∧ comingLevel (st [true]) 0 = true := by decide

theorem witness_WriteRawSendsTheSegmentBuffer :
    ((st []).busy = false ∧ digitsLegal (st []) = true) ∧ digitsLegal { st [] with digits := 1 } = true ∧
    digitsLegal { st [] with digits := 6 } = true ∧ (0 < (st []).digits.toNat ∧ (st []).digits.toNat ≤ 5) := by decide

theorem witness_ClearSendsZeroBytes :
    ((st []).busy = false ∧ digitsLegal (st []) = true) ∧ digitsLegal { st [] with digits := 1 } = true ∧
    digitsLegal { st [] with digits := 6 } = true ∧ (0 < (st []).digits.toNat ∧ (st []).digits.toNat ≤ 5) := by decide

theorem witness_WriteStrSendsTheEncodedText :
    ((st []).busy = false ∧ digitsLegal (st []) = true) ∧ digitsLegal { st [] with digits := 1 } = true ∧
    digitsLegal { st [] with digits := 6 } = true ∧ (0 < (st []).digits.toNat ∧ (st []).digits.toNat ≤ 5) := by decide

theorem witness_ClearIsRawOfZeros :
    let s := { st [] with segbuf := #v[0, 0, 0, 0, 1, 2] }
    s.busy = false ∧ digitsLegal s = true ∧ ∀ i, i < s.digits.toNat → s.segbuf[i]? = some 0 := by decide

theorem witness_EveryFrameHasOneStartAndOneStop :
    frameBytes (st []) (.writeRaw 0) = some [0xC0, 0x06, 0xDB, 0x4F, 0x00] ∧ frameBytes (st []) (.init 0) = some [0x40] ∧
    (st []).busy = false ∧ digitsLegal (st []) = true := by decide

theorem witness_WalkGivesOneBytePerPosition :
    (2 ≤ 2) ∧ (2 < 0 + 2 + 1 ∧ 2 < 4) := by decide

theorem witness_WalkReadsAtMostTwoCharactersPerPosition :
    let a : Vector Byte 12 := #v[0x31, 0x32, 1, 0, 0, 0, 0, 0, 0, 0, 0, 0]
    let b : Vector Byte 12 := #v[0x31, 0x32, 2, 0, 0, 0, 0, 0, 0, 0, 0, 0]
    (∀ k, k < 2 * 1 → charAt a k = charAt b k) ∧ min 3 (2 * 1) = min 12 (2 * 1) := by decide

theorem witness_LetterCaseDoesNotMatter :
    let a : Vector Byte 12 := #v[0x41, 0, 0, 0, 0, 0, 0, 0, 0, 0, 0, 0]
    let b : Vector Byte 12 := #v[0x61, 0, 0, 0, 0, 0, 0, 0, 0, 0, 0, 0]
    (∀ k, charAt a k = charAt b k ∨
      (isSubsetLetter (charAt a k &&& 0xDF) = true ∧ charAt a k &&& 0xDF = charAt b k &&& 0xDF)) ∧
    isSubsetLetter ((0x79 : Byte) &&& 0xDF) = true := by
  refine ⟨fun k => ?_, by decide⟩
  match k with
  | 0 => exact .inr (by decide)
  | 1 | 2 | 3 | 4 | 5 | 6 | 7 | 8 | 9 | 10 | 11 => exact .inl (by decide)
  | k + 12 => exact .inl (by simp [charAt])

theorem witness_EncoderPropertiesOfTheSource :
    0 + 1 < 2 ∧ charAt #v[0x31, 0x2E, 0, 0, 0, 0, 0, 0, 0, 0, 0, 0] (0 + 1) = 0x2E := by decide

theorem witness_UnmappedCodesAreBlank :
    WellFormed (.segromOther 0x2E) = true ∧ 0x80 ≤ (0x80 : Byte).toNat := by decide

theorem witness_SegWritesOneEntry :
    (5 < 6) ∧ (0 < 6) := by decide

theorem witness_ChrWritesOneEntry :
    (11 < 12) ∧ (0 < 12) := by decide

theorem witness_BufferWriteOutOfRangeChangesNothing :
    6 ≤ (6 : BitVec 4).toNat ∧ 6 ≤ (15 : BitVec 4).toNat ∧ 12 ≤ (12 : BitVec 4).toNat := by decide

theorem witness_BufferPortWritesAtOnce :
    quiet.rstN = true ∧ ∃ t, clockCycle { quiet with bufWe := true } running = .next t := ⟨by decide, _, rfl⟩

theorem witness_ReceiverTakesAcknowledgedCommands :
    let s := after (.tStart 0) (st [false])
    s.busy = false ∧ s.rx.place = .command ∧ comingLevel s 0 = false := by decide

theorem witness_BurstLandsFromAddressZero :
    let s := st [false, false, false, false, false]
    s.busy = false ∧ digitsLegal s = true ∧ s.scl = true ∧ s.sda = true ∧ s.rx.place = .outside ∧ s.rx.dataMode = true ∧
    ∀ k, k ≤ s.digits.toNat → comingLevel s k = false := by decide

theorem witness_OperationIsItsEventByEventRun :
    (st []).Idle ∧ digitsLegal (st []) = true := ⟨⟨by decide, by decide⟩, by decide⟩

theorem witness_AcceptanceAtThePorts :
    let p := { quiet with cmdValid := true, cmdOp := 4, bufWe := true }
    (p.rstN = true ∧ p.cmdValid = true ∧ (st []).busy = false ∧ p.cmdOp ≠ 0x7 ∧ p.cmdOp ≠ 0x8 ∧ p.cmdOp ≠ 0x9) ∧
    (digitsLegal (st []) = true ∧ (st []).digits.toNat ≤ 4 ∧ 3 < (st []).digits.toNat) ∧
    { p with cmdOp := 7 }.cmdOp = 0x7 ∧ { p with cmdOp := 8 }.cmdOp = 0x8 ∧ { p with cmdOp := 9 }.cmdOp = 0x9 := by decide

theorem witness_TheCommandWordStaysLatched :
    (st []).busy = false := by decide

theorem witness_NothingIsKnownAfterAByteNotAcknowledged :
    let s := st [true]
    (s.busy = false ∧ comingLevel s 0 = true) ∧ frameBytes s (.init 0) = some [0x40] ∧ digitsLegal s = true ∧
    someNack [(0x40 : Byte)].length (comingLevel s) = true := by decide

theorem witness_EveryOperationEnds :
    running.Inv ∧ running.busy = true := ⟨running_inv, by decide⟩

theorem witness_ResetEndsARunningOperation :
    { quiet with rstN := false }.rstN = false ∧ running.busy = true := by decide

theorem witness_EveryStepKeepsTheInvariant :
    running.Inv ∧ (∃ t, step running = .next t) ∧ (st []).Inv ∧ ∃ t, step (st []) = .next t := ⟨running_inv, ⟨_, rfl⟩, st_inv, _, rfl⟩

theorem witness_NoStepFaults :
    (st []).Inv ∧ running.Inv := ⟨st_inv, running_inv⟩

theorem witness_OnlySetDigitsWritesDigits :
    (∀ c, Instr.seg 0 1 ≠ .setDigits c) ∧ ∃ t, exec (.seg 0 1) (st []) = .next t := ⟨nofun, _, rfl⟩

theorem witness_WhoWritesTheBuffers :
    (∃ t, exec .segrom1 (st []) = .next t) ∧ (∀ k b, Instr.segrom1 ≠ .seg k b) ∧ (∀ k b, Instr.segrom1 ≠ .chr k b) ∧
    (∀ a, Instr.segrom1 ≠ .writeRaw a) ∧ (∀ n, Instr.segrom1 ≠ .writeStr n) ∧ ∀ a, Instr.segrom1 ≠ .clear a := ⟨⟨_, rfl⟩, nofun, nofun, nofun, nofun, nofun⟩

theorem witness_PhaseIsReadByNoInstruction :
    ∃ t, exec (.tStop 0) (st []) = .next t := ⟨_, rfl⟩

theorem witness_ByteOnTheWireIsNineRises :
    let rs := List.replicate 54 true ++ List.replicate 5 false
    rs.length = (byteEvents 0x80 false).length ∧ (∀ k, k < 48 → 4 ≤ k → rs[k]? = some true) ∧
    rs[54]? = some false ∧ rs[55]? = some false ∧ (⟨false, true⟩ : Lines).scl = false := by decide

theorem witness_RawScriptShowsItsBytes :
    let s := { st [] with host := rawScript [1, 2, 3, 4, 5, 6, 7, 8] ++ [line (.clear 0)] }
    s.busy = false ∧ s.host = rawScript [1, 2, 3, 4, 5, 6, 7, 8] ++ [line (.clear 0)] ∧ 5 < 6 ∧ 0 < 6 := by decide

theorem witness_StrScriptShowsItsText :
    let s := { st [] with host := strScript [0x31, 0x2E] ++ [] }
    s.busy = false ∧ s.host = strScript [0x31, 0x2E] ++ [] ∧ digitsLegal s = true ∧ (11 < 12) ∧ 3 < s.digits.toNat := by decide

theorem witness_OutputPorts :
    (5 : BitVec 3).toNat < 6 ∧ 6 ≤ (6 : BitVec 3).toNat := by decide

end Sys2Proof.Tests
end

namespace Sys2Proof.Machine

/-- The state a fetched word is executed in: the queue without its first action, and `done` fallen (R33). -/
theorem takeAction_eq (rest : List HostAct) (s : State) :
    takeAction rest s = { s with host := rest, done := false } := rfl

/-- The arm of the step that a program's run goes through: between operations, a word that decodes is executed in the
state without that word (R148; log 17). -/
theorem step_word_of_decode {s : State} {w : FetchWord} {rest : List HostAct} {i : Instr}
    (hbusy : s.busy = false) (hhost : s.host = .word w :: rest) (hdec : decode w = .ok i) :
    step s = exec i (takeAction rest s) := by
  simp [step, hhost, hbusy, hdec]

/-- Settles O5: the step's word arm, with `takeAction` read as the update of `host` and `done`. -/
theorem stepRunsTheDecodedInstruction : Obligations.StepRunsTheDecodedInstruction := by
  intro s w rest i hbusy hhost hdec
  rw [step_word_of_decode hbusy hhost hdec, takeAction_eq]

end Sys2Proof.Machine

namespace Sys2Proof.Machine

/-! ### What the parts of the invariant say -/

/-- The clamp of the digit count (R144), as a number. -/
theorem clampDigits_toNat (a : Byte) :
    (clampDigits a).toNat = if a.toNat = 0 then 1 else if 6 < a.toNat then 6 else a.toNat := by
  have hz : a = 0 ↔ a.toNat = 0 := by simp [BitVec.toNat_eq]
  unfold clampDigits maxDigits minDigits
  simp only [hz, BitVec.toNat_ofNat, apply_ite BitVec.toNat]
  split
  · rfl
  · split
    · rfl
    · exact Nat.mod_eq_of_lt (by omega)

/-- A clamped digit count is in range (R22, R144). -/
theorem digitsLegal_of_clamp {s : State} {a : Byte} (h : s.digits = clampDigits a) : digitsLegal s = true := by
  rw [digitsLegal_iff, h, clampDigits_toNat]
  split
  · simp
  · split <;> omega

/-- Between operations the position is legal when `STAGE` is idle. -/
theorem positionLegal_not_busy {s : State} (hb : s.busy = false) : positionLegal s = true ↔ s.stage = .idle := by
  simp [positionLegal, hb]

theorem positionLegal_idle {s : State} (hb : s.busy = true) (hg : s.stage = .idle) :
    positionLegal s = true ↔ s.op = opSetDigits ∨ isReservedOp s.op = true := by
  simp [positionLegal, hb, hg]

theorem positionLegal_pullHigh {s : State} (hb : s.busy = true) (hg : s.stage = .pullHigh) :
    positionLegal s = true ↔ s.op = opInit ∧ frameLegal s = true := by
  simp [positionLegal, hb, hg]

theorem positionLegal_start {s : State} (hb : s.busy = true) (hg : s.stage = .start) :
    positionLegal s = true ↔ s.stepIdx < 3 ∧ (s.op = opTStart ∨ frameLegal s = true) := by
  simp [positionLegal, hb, hg]

theorem positionLegal_byte {s : State} (hb : s.busy = true) (hg : s.stage = .byte) :
    positionLegal s = true ↔
      cellLegal s = true ∧ (s.op = opTByte ∨ frameLegal s = true ∧ s.byteIdx < s.nbytes) := by
  simp [positionLegal, hb, hg]

theorem positionLegal_stop {s : State} (hb : s.busy = true) (hg : s.stage = .stop) :
    positionLegal s = true ↔ s.stepIdx < 5 ∧ (s.op = opTStop ∨ frameLegal s = true) := by
  simp [positionLegal, hb, hg]

theorem cellLegal_ack {s : State} (h8 : s.bitIdx = 8) :
    cellLegal s = true ↔ s.stepIdx ≤ 10 ∧ (s.stepIdx = 7 → s.ackv = false) := by
  simp [cellLegal, h8, imp_iff_not_or]

theorem cellLegal_bit {s : State} (h8 : s.bitIdx < 8) : cellLegal s = true ↔ s.stepIdx < 6 := by
  have hne : s.bitIdx ≠ 8 := by bv_omega
  simp only [cellLegal, if_neg hne, h8, decide_true, Bool.true_and, decide_eq_true_eq]

/-- The first event of a byte's cell is legal in every cell. -/
theorem cellLegal_first {s : State} (h8 : s.bitIdx ≤ 8) (h0 : s.stepIdx = 0) : cellLegal s = true := by
  by_cases he : s.bitIdx = 8
  · simp [cellLegal_ack he, h0]
  · simp [cellLegal_bit (s := s) (by bv_omega), h0]

/-- A burst has its address command and at least one more byte (R80). -/
theorem frameLegal_burst {s : State} (hop : s.op = opWriteRaw ∨ s.op = opWriteStr ∨ s.op = opClear) :
    frameLegal s = true ↔ 2 ≤ s.nbytes := by
  rcases hop with hop | hop | hop <;> simp [frameLegal, hop]

/-- The frame's legality rests on the operation and on `NBYTES` alone. -/
theorem frameLegal_congr {s t : State} (ho : t.op = s.op) (hn : t.nbytes = s.nbytes) :
    frameLegal t = frameLegal s := by
  simp only [frameLegal, ho, hn]

@[simp] theorem frameLegal_advance (s : State) : frameLegal (advance s) = frameLegal s := frameLegal_congr rfl rfl
@[simp] theorem frameLegal_sampleAt (r : Level) (s : State) : frameLegal (sampleAt r s) = frameLegal s :=
  frameLegal_congr rfl rfl

/-- A frame has at least one byte (R80). -/
theorem nbytes_pos_of_frameLegal {s : State} (h : frameLegal s = true) : 0 < s.nbytes := by
  unfold frameLegal at h
  split at h <;> simp only [decide_eq_true_eq, Bool.false_eq_true] at h <;> bv_omega

theorem burstBytes_length (s : State) : (burstBytes s).length = min s.digits.toNat 6 + 1 := by
  simp [burstBytes]

/-! ### The updates that keep the invariant -/

section
variable {s : State}

theorem emit_inv (e : PinEvent) (h : s.Inv) : (emit e s).Inv := by
  cases e <;> exact ⟨h.digits, h.position, h.memory⟩

theorem raiseBoth_inv (h : s.Inv) : (raiseBoth s).Inv :=
  ⟨h.digits, h.position, Receiver.onRaise_wf _ _ _ h.memory⟩

theorem endStart_inv (h : s.Inv) : (endStart s).Inv :=
  ⟨h.digits, h.position, Receiver.onStart_wf _ h.memory⟩

theorem dropLevel_inv (h : s.Inv) : (dropLevel s).Inv := by
  unfold dropLevel; split <;> exact ⟨h.digits, h.position, h.memory⟩

theorem bufWrite_inv (sel : Bool) (i : BitVec 4) (b : Byte) (h : s.Inv) : (bufWrite sel i b s).Inv := by
  cases sel <;> exact ⟨h.digits, h.position, h.memory⟩

theorem clearDone_inv (h : s.Inv) : (clearDone s).Inv := ⟨h.digits, h.position, h.memory⟩

/-- The end of an operation is a legal position whatever the position before was (R148). -/
theorem finish_inv (r : Bool) (hd : digitsLegal s = true) (hm : s.rx.mem.wf = true) : (finish r s).Inv :=
  ⟨hd, rfl, hm⟩

theorem advance_inv_start (h : s.Inv) (hb : s.busy = true) (hg : s.stage = .start) (hn : s.stepIdx + 1 < 3) :
    (advance s).Inv :=
  have ⟨_, hop⟩ := (positionLegal_start hb hg).1 h.position
  ⟨h.digits, (positionLegal_start (s := advance s) hb hg).2 ⟨hn, hop⟩, h.memory⟩

theorem advance_inv_stop (h : s.Inv) (hb : s.busy = true) (hg : s.stage = .stop) (hn : s.stepIdx + 1 < 5) :
    (advance s).Inv :=
  have ⟨_, hop⟩ := (positionLegal_stop hb hg).1 h.position
  ⟨h.digits, (positionLegal_stop (s := advance s) hb hg).2 ⟨hn, hop⟩, h.memory⟩

/-- A byte may stand at any legal place of a cell, when it is the operand of `T_BYTE` or a byte of the frame. -/
theorem byte_inv (hd : digitsLegal s = true) (hm : s.rx.mem.wf = true) (hb : s.busy = true) (hg : s.stage = .byte)
    (hop : s.op = opTByte ∨ frameLegal s = true ∧ s.byteIdx < s.nbytes) (hc : cellLegal s = true) : s.Inv :=
  ⟨hd, (positionLegal_byte hb hg).2 ⟨hc, hop⟩, hm⟩

theorem advance_inv_byte (h : s.Inv) (hb : s.busy = true) (hg : s.stage = .byte)
    (hc : cellLegal (advance s) = true) : (advance s).Inv :=
  have ⟨_, hop⟩ := (positionLegal_byte hb hg).1 h.position
  byte_inv (s := advance s) h.digits h.memory hb hg hop hc

/-- A start condition may begin for `T_START` and for every frame (R104, R140). -/
theorem enterStart_inv (hd : digitsLegal s = true) (hm : s.rx.mem.wf = true) (hb : s.busy = true)
    (hop : s.op = opTStart ∨ frameLegal s = true) : (enter .start s).Inv :=
  ⟨hd, (positionLegal_start (s := enter .start s) hb rfl).2 ⟨by simp, hop⟩, hm⟩

/-- The stop condition of a frame may begin after any byte (R140). -/
theorem enterStop_inv (hd : digitsLegal s = true) (hm : s.rx.mem.wf = true) (hb : s.busy = true)
    (hf : frameLegal s = true) : (enter .stop s).Inv :=
  ⟨hd, (positionLegal_stop (s := enter .stop s) hb rfl).2 ⟨by simp, .inr hf⟩, hm⟩

/-- A byte of the frame that stands below `NBYTES` may begin (R140). -/
theorem startFrameByte_inv {t : State} {k : Nat} (ht : startFrameByte k s = some t) (hd : digitsLegal s = true)
    (hm : s.rx.mem.wf = true) (hb : s.busy = true) (hf : frameLegal s = true) (hk : BitVec.ofNat 3 k < s.nbytes) :
    t.Inv := by
  unfold startFrameByte at ht
  split at ht
  · cases ht
    exact byte_inv (s := enter .byte _) hd hm hb rfl (.inr ⟨hf, hk⟩) (cellLegal_first (by simp [enter]) rfl)
  · cases ht

end

/-! ### What an event step can do, stage by stage -/

section
variable {r : Level} {s t : State}

/-- A step of stage 0 ends the operation; it may write `DIGITS` with a clamped count (R144, R73). -/
theorem tickSilent_cases (h : tickSilent s = some t) :
    t = finish false { s with digits := clampDigits s.arg } ∨ t = finish true s := by
  unfold tickSilent at h
  split at h
  · cases h; exact .inl rfl
  · split at h <;> cases h
    exact .inr rfl

/-- A step of the start condition (R111): its next event, or its last one, after which `T_START` ends and a frame goes
on to its first byte. -/
theorem tickStart_cases (h : tickStart s = some t) :
    (s.stepIdx = 0 ∧ t = advance (raiseBoth s)) ∨ (s.stepIdx = 1 ∧ t = advance (emit .delay s)) ∨
    (s.stepIdx = 2 ∧ s.op = opTStart ∧ t = finish false (endStart s)) ∨
    (s.stepIdx = 2 ∧ s.op ≠ opTStart ∧ startFrameByte 0 (endStart s) = some t) := by
  unfold tickStart at h
  split at h
  case h_1 hk => exact .inl ⟨hk, (Option.some.inj h).symm⟩
  case h_2 hk => exact .inr (.inl ⟨hk, (Option.some.inj h).symm⟩)
  case h_3 hk =>
    dsimp only at h
    split at h
    case isTrue hop => exact .inr (.inr (.inl ⟨hk, hop, (Option.some.inj h).symm⟩))
    case isFalse hop => exact .inr (.inr (.inr ⟨hk, hop, h⟩))
  case h_4 => cases h

/-- A step of a bit cell (R111): its next event, or its last one with the shift. -/
theorem tickBit_cases (h : tickBit s = some t) :
    (s.stepIdx < 5 ∧ ∃ e, t = advance (emit e s)) ∨
    (s.stepIdx = 5 ∧ t = enter .byte (shiftBit (emit .delay s))) := by
  unfold tickBit at h
  split at h
  case h_1 hk | h_2 hk | h_3 hk | h_4 hk | h_5 hk =>
    exact .inl ⟨by rw [hk]; decide, _, (Option.some.inj h).symm⟩
  case h_6 hk => exact .inr ⟨hk, (Option.some.inj h).symm⟩
  case h_7 => cases h

/-- A step of the acknowledgment cell (R111): an event other than the SAMPLE and the last one, the SAMPLE, after which
event 7 is skipped when the level is 1, or the last event. -/
theorem tickAck_cases (h : tickAck r s = some t) :
    (s.stepIdx < 10 ∧ s.stepIdx ≠ 6 ∧ ∃ e, t = advance (emit e s)) ∨
    (s.stepIdx = 6 ∧ t = if (sampleAt r s).ackv then advance (advance (sampleAt r s)) else advance (sampleAt r s)) ∨
    (s.stepIdx = 10 ∧ byteDone (emit .delay s) = some t) := by
  unfold tickAck at h
  split at h
  case h_1 hk | h_2 hk | h_3 hk | h_4 hk | h_5 hk | h_6 hk | h_9 hk | h_10 hk =>
    exact .inl ⟨by rw [hk]; decide, by rw [hk]; decide, _, (Option.some.inj h).symm⟩
  case h_7 hk => exact .inr (.inl ⟨hk, (Option.some.inj h).symm⟩)
  case h_8 hk =>
    split at h
    · cases h
    · exact .inl ⟨by rw [hk]; decide, by rw [hk]; decide, _, (Option.some.inj h).symm⟩
  case h_11 hk => exact .inr (.inr ⟨hk, h⟩)
  case h_12 => cases h

/-- The end of a byte (R150): `T_BYTE` ends; a frame goes on to its stop condition or to its next byte. -/
theorem byteDone_cases (h : byteDone s = some t) :
    ∃ b u, u = { s with rx := s.rx.onByte b s.ackv } ∧
      ((s.op = opTByte ∧ t = finish (ackResult u) u) ∨
       (s.op ≠ opTByte ∧ (t = enter .stop (ackFailure u) ∨ t = enter .stop u)) ∨
       (s.op ≠ opTByte ∧ s.byteIdx + 1 ≠ s.nbytes ∧ startFrameByte (s.byteIdx.toNat + 1) u = some t)) := by
  unfold byteDone at h
  split at h
  · cases h
  case h_2 b _ =>
    refine ⟨b, _, rfl, ?_⟩
    dsimp only at h
    split at h
    case isTrue hop => exact .inl ⟨hop, (Option.some.inj h).symm⟩
    case isFalse hop =>
      split at h
      · exact .inr (.inl ⟨hop, .inl (Option.some.inj h).symm⟩)
      · split at h
        · exact .inr (.inl ⟨hop, .inr (Option.some.inj h).symm⟩)
        case isFalse hn => exact .inr (.inr ⟨hop, hn, h⟩)

/-- A step of the stop condition (R111): its next event, or its last one, which ends the operation. -/
theorem tickStop_cases (h : tickStop s = some t) :
    (s.stepIdx < 4 ∧ ∃ e, t = advance (emit e s)) ∨ (s.stepIdx = 4 ∧ ∃ x, t = finish x (endStop s)) := by
  unfold tickStop at h
  split at h
  case h_1 hk | h_2 hk | h_3 hk | h_4 hk => exact .inl ⟨by rw [hk]; decide, _, (Option.some.inj h).symm⟩
  case h_5 hk =>
    refine .inr ⟨hk, ?_⟩
    dsimp only at h
    split at h
    · exact ⟨_, (Option.some.inj h).symm⟩
    · split at h <;> cases h
      exact ⟨_, rfl⟩
  case h_6 => cases h

/-! ### Every event step keeps the invariant -/

theorem tickSilent_inv (h : s.Inv) (ht : tickSilent s = some t) : t.Inv := by
  rcases tickSilent_cases ht with rfl | rfl
  · exact finish_inv _ (digitsLegal_of_clamp rfl) h.memory
  · exact finish_inv _ h.digits h.memory

theorem tickStart_inv (h : s.Inv) (hb : s.busy = true) (hg : s.stage = .start) (ht : tickStart s = some t) :
    t.Inv := by
  have ⟨_, hop⟩ := (positionLegal_start hb hg).1 h.position
  have hs := endStart_inv h
  rcases tickStart_cases ht with ⟨hk, rfl⟩ | ⟨hk, rfl⟩ | ⟨-, -, rfl⟩ | ⟨-, hne, hf⟩
  · exact advance_inv_start (raiseBoth_inv h) hb hg (by simp [hk])
  · exact advance_inv_start (emit_inv _ h) hb hg (by simp [hk])
  · exact finish_inv _ hs.digits hs.memory
  · have hfl := hop.resolve_left hne
    exact startFrameByte_inv hf hs.digits hs.memory hb hfl (nbytes_pos_of_frameLegal hfl)

theorem tickBit_inv (h : s.Inv) (hb : s.busy = true) (hg : s.stage = .byte) (h8 : s.bitIdx < 8)
    (ht : tickBit s = some t) : t.Inv := by
  rcases tickBit_cases ht with ⟨hk, e, rfl⟩ | ⟨-, rfl⟩
  · refine advance_inv_byte (emit_inv e h) (by simpa) (by simpa) ((cellLegal_bit (by simpa [advance])).2 ?_)
    simp only [advance, emit_stepIdx]
    bv_omega
  · have ⟨_, hop⟩ := (positionLegal_byte hb hg).1 h.position
    refine byte_inv (s := enter .byte _) h.digits h.memory hb rfl hop (cellLegal_first ?_ rfl)
    simp only [enter, shiftBit_bitIdx, emit_bitIdx]
    bv_omega

/-- The SAMPLE of the acknowledgment cell: the next event is event 8 when the level is 1, else event 7 (R111). -/
theorem sampleStep_inv (h : s.Inv) (hb : s.busy = true) (hg : s.stage = .byte) (h8 : s.bitIdx = 8)
    (hk : s.stepIdx = 6) :
    (if (sampleAt r s).ackv then advance (advance (sampleAt r s)) else advance (sampleAt r s)).Inv := by
  have ⟨_, hop⟩ := (positionLegal_byte hb hg).1 h.position
  split
  case isTrue =>
    have hc : cellLegal (advance (advance (sampleAt r s))) = true := by simp [cellLegal, h8, hk]
    exact byte_inv h.digits h.memory hb hg (by simpa using hop) hc
  case isFalse ha =>
    have hc : cellLegal (advance (sampleAt r s)) = true := by
      rw [cellLegal_ack (by simpa)]
      simpa [hk] using ha
    exact byte_inv h.digits h.memory hb hg (by simpa using hop) hc

theorem byteDone_inv (h : s.Inv) (hb : s.busy = true) (hg : s.stage = .byte) (ht : byteDone s = some t) : t.Inv := by
  have ⟨_, hop⟩ := (positionLegal_byte hb hg).1 h.position
  obtain ⟨b, u, rfl, ⟨-, rfl⟩ | ⟨hne, rfl | rfl⟩ | ⟨hne, hlast, hf⟩⟩ := byteDone_cases ht
  all_goals have hm := s.rx.onByte_wf b s.ackv h.memory
  · exact finish_inv _ h.digits hm
  · exact enterStop_inv h.digits hm hb (hop.resolve_left hne).1
  · exact enterStop_inv h.digits hm hb (hop.resolve_left hne).1
  · obtain ⟨hfl, hlt⟩ := hop.resolve_left hne
    refine startFrameByte_inv hf h.digits hm hb hfl ?_
    bv_omega

theorem tickAck_inv (h : s.Inv) (hb : s.busy = true) (hg : s.stage = .byte) (h8 : s.bitIdx = 8)
    (ht : tickAck r s = some t) : t.Inv := by
  rcases tickAck_cases ht with ⟨hlt, h6, e, rfl⟩ | ⟨hk, rfl⟩ | ⟨-, hd⟩
  · refine advance_inv_byte (emit_inv e h) (by simpa) (by simpa) ((cellLegal_ack (by simpa [advance])).2 ?_)
    simp only [advance, emit_stepIdx]
    exact ⟨by bv_omega, fun h7 => absurd h7 (by bv_omega)⟩
  · exact sampleStep_inv h hb hg h8 hk
  · exact byteDone_inv (emit_inv .delay h) hb hg hd

theorem tickStop_inv (h : s.Inv) (hb : s.busy = true) (hg : s.stage = .stop) (ht : tickStop s = some t) : t.Inv := by
  rcases tickStop_cases ht with ⟨hlt, e, rfl⟩ | ⟨-, x, rfl⟩
  · refine advance_inv_stop (emit_inv e h) (by simpa) (by simpa) ?_
    rw [emit_stepIdx]
    bv_omega
  · exact finish_inv _ h.digits (Receiver.onStop_wf _ h.memory)

/-- An event step of a running operation keeps the invariant, whatever level is sampled (R111). -/
theorem tick_inv (h : s.Inv) (hb : s.busy = true) (ht : tick r s = some t) : t.Inv := by
  unfold tick at ht
  split at ht
  case h_1 => exact tickSilent_inv h ht
  case h_2 hg =>
    have ⟨hop, hfl⟩ := (positionLegal_pullHigh hb hg).1 h.position
    rw [if_pos hop] at ht
    cases ht
    have hr := raiseBoth_inv h
    exact enterStart_inv hr.digits hr.memory hb (.inr hfl)
  case h_3 hg => exact tickStart_inv h hb hg ht
  case h_4 hg =>
    split at ht
    case isTrue h8 => exact tickAck_inv h hb hg h8 ht
    case isFalse =>
      split at ht
      case isTrue hlt => exact tickBit_inv h hb hg hlt ht
      case isFalse => cases ht
  case h_5 hg => exact tickStop_inv h hb hg ht

theorem tickInput_inv (h : s.Inv) (hb : s.busy = true) (ht : tickInput s = some t) : t.Inv := by
  unfold tickInput at ht
  split at ht
  · obtain ⟨u, hu, rfl⟩ := Option.map_eq_some_iff.1 ht
    exact dropLevel_inv (tick_inv h hb hu)
  · exact tick_inv h hb ht

theorem continueOperation_inv (h : s.Inv) (hb : s.busy = true) (ht : continueOperation s = .next t) : t.Inv := by
  unfold continueOperation at ht
  split at ht
  case h_1 u hu =>
    cases ht
    exact tickInput_inv (clearDone_inv h) hb hu
  case h_2 => cases ht

end

/-! ### Reset, acceptance and the clock cycle keep the invariant -/

/-- The state after a reset meets the invariant, whatever the unspecified elements hold (R36). -/
theorem powerOn_inv (n : Nat) : (State.powerOn n).Inv :=
  ⟨digitsLegal_of_clamp rfl, rfl, rfl⟩

theorem blockReset_inv (s : State) : (blockReset s).Inv := by
  have h := powerOn_inv s.free
  refine ⟨h.digits, h.position, ?_⟩
  show (resetReceiver s).mem.wf = true
  rcases resetReceiver_cases s with ⟨-, -, -, -, hr⟩ | hr <;> rw [hr] <;> rfl

section
variable {s : State}

/-- What acceptance sets up for a burst is the first event of a legal frame: `DIGITS` is at least 1 (R22, R80). -/
theorem acceptBurst_inv (bs : List Byte) (hd : digitsLegal s = true) (hm : s.rx.mem.wf = true) (hb : s.busy = true)
    (hop : s.op = opWriteRaw ∨ s.op = opWriteStr ∨ s.op = opClear) :
    (enter .start (beginFrame (burstBytes (loadXbuf bs s)).length (loadXbuf bs s))).Inv := by
  have hn : 2 ≤ BitVec.ofNat 3 (burstBytes (loadXbuf bs s)).length := by
    have ⟨h1, h6⟩ := (digitsLegal_iff s).1 hd
    rw [burstBytes_length, loadXbuf_digits, min_eq_left h6, BitVec.le_def, BitVec.toNat_ofNat]
    exact (by omega : 2 ≤ (s.digits.toNat + 1) % 2 ^ 3)
  exact enterStart_inv hd hm hb (.inr ((frameLegal_burst (s := beginFrame _ _) hop).2 hn))

/-- Acceptance stands before the first event of the operation its code names (R148). -/
theorem accept_inv (op : BitVec 4) (arg : Byte) (h : s.Inv) : (accept op arg s).Inv := by
  have hd := h.digits
  have hm := h.memory
  unfold accept
  dsimp only
  split
  case h_1 => exact enterStart_inv hd hm rfl (.inl rfl)
  case h_2 => exact ⟨hd, rfl, hm⟩
  case h_3 => exact ⟨hd, rfl, hm⟩
  case h_4 => exact ⟨hd, rfl, hm⟩
  case h_5 => exact enterStart_inv hd hm rfl (.inr rfl)
  case h_6 => exact acceptBurst_inv _ hd hm rfl (.inl rfl)
  case h_7 => exact acceptBurst_inv _ hd hm rfl (.inr (.inl rfl))
  case h_8 => exact acceptBurst_inv _ hd hm rfl (.inr (.inr rfl))
  case h_9 =>
    refine ⟨hd, (positionLegal_idle (s := enter .idle (latch op arg s)) rfl rfl).2 ?_, hm⟩
    show op = opSetDigits ∨ isReservedOp op = true
    clear hd hm h
    revert op
    decide

theorem clockCycle_inv {t : State} (p : PortIn) (h : s.Inv) (ht : clockCycle p s = .next t) : t.Inv := by
  have hw : (if p.bufWe then bufWrite p.bufSel p.bufAddr p.bufWdata (clearDone s) else clearDone s).Inv := by
    split
    · exact bufWrite_inv _ _ _ (clearDone_inv h)
    · exact clearDone_inv h
  unfold clockCycle at ht
  split at ht
  · cases ht; exact blockReset_inv s
  · dsimp only at ht
    generalize (if p.bufWe then _ else clearDone s) = u at ht hw
    split at ht
    case isTrue hb =>
      split at ht
      case h_1 v hv => cases ht; exact tick_inv hw hb hv
      case h_2 => cases ht
    case isFalse =>
      split at ht
      · cases ht; exact accept_inv _ _ hw
      · cases ht; exact hw

end

/-! ### The operations by their code -/

/-- The operation of code `op` with argument `arg` (R71, R73). -/
def opInstr (op : BitVec 4) (arg : Byte) : Instr :=
  match op with
  | 0x0#4 => .reserved0 arg
  | 0x1#4 => .tStart arg
  | 0x2#4 => .tStop arg
  | 0x3#4 => .tByte arg
  | 0x4#4 => .init arg
  | 0x5#4 => .setBright arg
  | 0x6#4 => .setDigits arg
  | 0x7#4 => .writeRaw arg
  | 0x8#4 => .writeStr arg
  | 0x9#4 => .clear arg
  | 0xA#4 => .reservedA arg
  | 0xB#4 => .reservedB arg
  | 0xC#4 => .reservedC arg
  | 0xD#4 => .reservedD arg
  | 0xE#4 => .reservedE arg
  | _ => .reservedF arg

/-- What the operation of code `op` does between its acceptance and its end (R71, R73). -/
def opBody (op : BitVec 4) (arg : Byte) : State → State :=
  match op with
  | 0x1#4 => startCondition
  | 0x2#4 => stopCondition
  | 0x3#4 => sendByte arg
  | 0x4#4 => initEvents
  | 0x5#4 => frame [brightByte arg]
  | 0x6#4 => setDigits arg
  | 0x7#4 => rawBurst
  | 0x8#4 => textBurst arg
  | 0x9#4 => zeroBurst
  | _ => noEvents

/-- Where the operation of code `op` takes its result from (R85, R73). -/
def opResult (op : BitVec 4) : State → Bool :=
  match op with
  | 0x1#4 | 0x2#4 | 0x6#4 => noError
  | 0x3#4 => ackResult
  | 0x4#4 | 0x5#4 | 0x7#4 | 0x8#4 | 0x9#4 => frameResult
  | _ => reservedResult

/-- The command word is the code above the argument (R70). -/
theorem decodeCmd_append (op : BitVec 4) (arg : Byte) : decodeCmd (op ++ arg) = opInstr op arg := by
  have hop : (op ++ arg : BitVec 12).extractLsb' 8 4 = op := BitVec.extractLsb'_append_eq_left
  have harg : (op ++ arg : BitVec 12).extractLsb' 0 8 = arg := BitVec.extractLsb'_append_eq_right
  unfold decodeCmd
  rw [hop, harg]
  rfl

/-- An operation runs the body of its code between acceptance and end (R148). -/
theorem exec_opInstr (op : BitVec 4) (arg : Byte) (s : State) :
    exec (opInstr op arg) s = command op arg (opBody op arg) (opResult op) s := by
  have h : op ∈ [0x0#4, 0x1#4, 0x2#4, 0x3#4, 0x4#4, 0x5#4, 0x6#4, 0x7#4, 0x8#4, 0x9#4, 0xA#4, 0xB#4, 0xC#4, 0xD#4,
      0xE#4, 0xF#4] := by
    revert op; decide
  simp only [List.mem_cons, List.not_mem_nil, or_false] at h
  rcases h with rfl | rfl | rfl | rfl | rfl | rfl | rfl | rfl | rfl | rfl | rfl | rfl | rfl | rfl | rfl | rfl <;> rfl

/-- Every instruction, in every state, is an operation of the block, a buffer write, a byte of the wire or a look-up. -/
theorem exec_kinds (i : Instr) :
    (∃ op arg, i = opInstr op arg) ∨ (∃ k b, i = .seg k b) ∨ (∃ k b, i = .chr k b) ∨
    (∃ b, ∀ s, exec i s = wireByte b s) ∨ (∃ c, ∀ s, exec i s = lookUp c s) := by
  cases i with
  | reserved0 a => exact .inl ⟨0x0, a, rfl⟩
  | tStart a => exact .inl ⟨0x1, a, rfl⟩
  | tStop a => exact .inl ⟨0x2, a, rfl⟩
  | tByte a => exact .inl ⟨0x3, a, rfl⟩
  | init a => exact .inl ⟨0x4, a, rfl⟩
  | setBright a => exact .inl ⟨0x5, a, rfl⟩
  | setDigits a => exact .inl ⟨0x6, a, rfl⟩
  | writeRaw a => exact .inl ⟨0x7, a, rfl⟩
  | writeStr a => exact .inl ⟨0x8, a, rfl⟩
  | clear a => exact .inl ⟨0x9, a, rfl⟩
  | reservedA a => exact .inl ⟨0xA, a, rfl⟩
  | reservedB a => exact .inl ⟨0xB, a, rfl⟩
  | reservedC a => exact .inl ⟨0xC, a, rfl⟩
  | reservedD a => exact .inl ⟨0xD, a, rfl⟩
  | reservedE a => exact .inl ⟨0xE, a, rfl⟩
  | reservedF a => exact .inl ⟨0xF, a, rfl⟩
  | seg k b => exact .inr (.inl ⟨k, b, rfl⟩)
  | chr k b => exact .inr (.inr (.inl ⟨k, b, rfl⟩))
  | wDataCmd => exact .inr (.inr (.inr (.inl ⟨_, exec_wDataCmd⟩)))
  | wAddrCmd => exact .inr (.inr (.inr (.inl ⟨_, exec_wAddrCmd⟩)))
  | wDispOff => exact .inr (.inr (.inr (.inl ⟨_, exec_wDispOff⟩)))
  | wDispOn bbb => exact .inr (.inr (.inr (.inl ⟨_, exec_wDispOn bbb⟩)))
  | _ => exact .inr (.inr (.inr (.inr ⟨_, fun _ => rfl⟩)))

/-! ### What an operation writes -/

theorem startCondition_wireOnly (s : State) : WireOnly s (startCondition s) := by
  rw [startCondition_eq]; exact ⟨⟨rfl, rfl, rfl, rfl, rfl, rfl⟩, rfl, rfl, rfl, rfl, rfl, rfl, rfl⟩

theorem stopCondition_wireOnly (s : State) : WireOnly s (stopCondition s) := by
  rw [stopCondition_eq]; exact ⟨⟨rfl, rfl, rfl, rfl, rfl, rfl⟩, rfl, rfl, rfl, rfl, rfl, rfl, rfl⟩

theorem initEvents_wireOnly (s : State) : WireOnly s (initEvents s) :=
  .trans (t := raiseBoth s) ⟨⟨rfl, rfl, rfl, rfl, rfl, rfl⟩, rfl, rfl, rfl, rfl, rfl, rfl, rfl⟩ (frame_wireOnly _ _)

theorem burst_wireOnly (bs : List Byte) (s : State) : WireOnly (loadXbuf bs s) (burst bs s) := frame_wireOnly _ _

/-- Beside the wire, `SET_DIGITS` writes `DIGITS` and the bursts write `XBUF`; no other operation writes a store
(R22 to R25). -/
theorem opBody_cases (op : BitVec 4) (arg : Byte) (s : State) :
    (op = opSetDigits ∧ opBody op arg s = setDigits arg s) ∨
    ((op = opWriteRaw ∨ op = opWriteStr ∨ op = opClear) ∧ ∃ bs, opBody op arg s = burst bs s) ∨
    WireOnly s (opBody op arg s) := by
  unfold opBody
  split
  case h_1 => exact .inr (.inr (startCondition_wireOnly s))
  case h_2 => exact .inr (.inr (stopCondition_wireOnly s))
  case h_3 => exact .inr (.inr (sendByte_wireOnly arg s))
  case h_4 => exact .inr (.inr (initEvents_wireOnly s))
  case h_5 => exact .inr (.inr (frame_wireOnly _ s))
  case h_6 => exact .inl ⟨rfl, rfl⟩
  case h_7 => exact .inr (.inl ⟨.inl rfl, _, rfl⟩)
  case h_8 => exact .inr (.inl ⟨.inr (.inl rfl), _, rfl⟩)
  case h_9 => exact .inr (.inl ⟨.inr (.inr rfl), _, rfl⟩)
  case h_10 => exact .inr (.inr (.refl s))

theorem opBody_digitsLegal (op : BitVec 4) (arg : Byte) (s : State) (h : digitsLegal s = true) :
    digitsLegal (opBody op arg s) = true := by
  rcases opBody_cases op arg s with ⟨-, he⟩ | ⟨-, bs, he⟩ | hw
  · rw [he]; exact digitsLegal_of_clamp rfl
  · rw [he, digitsLegal, (burst_wireOnly bs s).digits]; exact h
  · rw [digitsLegal, hw.digits]; exact h

theorem opBody_mem_wf (op : BitVec 4) (arg : Byte) (s : State) (h : s.rx.mem.wf = true) :
    (opBody op arg s).rx.mem.wf = true := by
  unfold opBody
  split
  case h_1 => rw [startCondition_eq]; exact Receiver.onStart_wf _ (Receiver.onRaise_wf _ _ _ h)
  case h_2 => rw [stopCondition_eq]; exact Receiver.onStop_wf _ h
  case h_3 => rw [sendByte_eq]; exact Receiver.onByte_wf _ _ _ h
  case h_4 => exact frame_mem_wf _ _ (Receiver.onRaise_wf _ _ _ h)
  case h_5 | h_7 | h_8 | h_9 => exact frame_mem_wf _ _ h
  case h_6 | h_10 => exact h

/-- No operation writes the latched word, `SEGBUF` or `TXT` (R31, R23, R24). -/
theorem opBody_frame (op : BitVec 4) (arg : Byte) (s : State) :
    (opBody op arg s).op = s.op ∧ (opBody op arg s).arg = s.arg ∧
    (opBody op arg s).segbuf = s.segbuf ∧ (opBody op arg s).txt = s.txt := by
  rcases opBody_cases op arg s with ⟨-, he⟩ | ⟨-, bs, he⟩ | hw
  · rw [he]; exact ⟨rfl, rfl, rfl, rfl⟩
  · have hw := burst_wireOnly bs s
    rw [he]; exact ⟨hw.op, hw.arg, hw.segbuf, hw.txt⟩
  · exact ⟨hw.op, hw.arg, hw.segbuf, hw.txt⟩

/-- An operation while the block is busy answers the same state; else the state after its body and its end (R148). -/
theorem exec_opInstr_cases {op : BitVec 4} {arg : Byte} {s t : State} (h : exec (opInstr op arg) s = .next t) :
    t = s ∨ ∃ r, t = finish r (opBody op arg (latch op arg s)) := by
  rw [exec_opInstr] at h
  rcases command_cases op arg (opBody op arg) (opResult op) s with ⟨-, hc⟩ | ⟨-, hc⟩ <;> rw [hc] at h <;> cases h
  · exact .inl rfl
  · exact .inr ⟨_, rfl⟩

/-- A byte of the wire, sent or not, leaves the stores and the sequencer as they were (R74). -/
theorem wireByte_wireOnly {b : Byte} {s t : State} (h : wireByte b s = .next t) : WireOnly s t := by
  unfold wireByte at h
  split at h <;> cases h
  · exact .refl s
  · exact sendByte_wireOnly b s

/-! ### Every step keeps the invariant -/

section
variable {s t : State}

theorem wireByte_inv {b : Byte} (h : s.Inv) (ht : wireByte b s = .next t) : t.Inv := by
  unfold wireByte at ht
  split at ht
  case isTrue => cases ht; exact h
  case isFalse hb =>
    cases ht
    have hb : s.busy = false := by simpa using hb
    have hw := sendByte_wireOnly b s
    refine ⟨?_, ?_, ?_⟩
    · rw [digitsLegal, hw.digits]; exact h.digits
    · rw [positionLegal_not_busy (hw.busy.trans hb), hw.stage]
      exact (positionLegal_not_busy hb).1 h.position
    · rw [sendByte_eq]; exact Receiver.onByte_wf _ _ _ h.memory

/-- Every instruction, in every state, keeps the invariant. -/
theorem exec_inv {i : Instr} (h : s.Inv) (ht : exec i s = .next t) : t.Inv := by
  rcases exec_kinds i with ⟨op, arg, rfl⟩ | ⟨k, b, rfl⟩ | ⟨k, b, rfl⟩ | ⟨b, he⟩ | ⟨c, he⟩
  · rcases exec_opInstr_cases ht with rfl | ⟨r, rfl⟩
    · exact h
    · exact finish_inv r (opBody_digitsLegal op arg _ h.digits) (opBody_mem_wf op arg _ h.memory)
  · cases ht; exact bufWrite_inv false k b h
  · cases ht; exact bufWrite_inv true k b h
  · rw [he] at ht; exact wireByte_inv h ht
  · rw [he] at ht; cases ht; exact ⟨h.digits, h.position, h.memory⟩

/-- Settles O48: the step's arms are a clock cycle, an event of the running operation, an instruction and waiting, and
each keeps the invariant. -/
theorem everyStepKeepsTheInvariant : Obligations.EveryStepKeepsTheInvariant := by
  intro s t h ht
  unfold step at ht
  split at ht
  case h_1 p rest _ => exact clockCycle_inv p (s := { s with host := rest }) ⟨h.digits, h.position, h.memory⟩ ht
  case h_2 =>
    split at ht
    case isTrue hb => exact continueOperation_inv h hb ht
    case isFalse => cases ht; exact clearDone_inv h
  case h_3 w rest _ =>
    split at ht
    case isTrue hb => exact continueOperation_inv h hb ht
    case isFalse =>
      split at ht
      case h_1 i _ => exact exec_inv (s := takeAction rest s) ⟨h.digits, h.position, h.memory⟩ ht
      case h_2 => cases ht

end

/-- Settles O51: the bodies of the other operations write the wire and `XBUF` only. -/
theorem onlySetDigitsWritesDigits : Obligations.OnlySetDigitsWritesDigits := by
  intro i s t hi ht
  rcases exec_kinds i with ⟨op, arg, rfl⟩ | ⟨k, b, rfl⟩ | ⟨k, b, rfl⟩ | ⟨b, he⟩ | ⟨c, he⟩
  · rcases exec_opInstr_cases ht with rfl | ⟨r, rfl⟩
    · rfl
    rw [finish_digits]
    rcases opBody_cases op arg (latch op arg s) with ⟨rfl, -⟩ | ⟨-, bs, he⟩ | hw
    · exact absurd rfl (hi arg)
    · rw [he, (burst_wireOnly bs _).digits]; rfl
    · exact hw.digits
  · cases ht; exact bufWrite_digits ..
  · cases ht; exact bufWrite_digits ..
  · rw [he] at ht; exact (wireByte_wireOnly ht).digits
  · rw [he] at ht; cases ht; rfl

/-- Settles O52: beside the wire an operation writes `XBUF` in the bursts only, and the buffer port one buffer. -/
theorem whoWritesTheBuffers : Obligations.WhoWritesTheBuffers := by
  intro i s t ht
  rcases exec_kinds i with ⟨op, arg, rfl⟩ | ⟨k, b, rfl⟩ | ⟨k, b, rfl⟩ | ⟨b, he⟩ | ⟨c, he⟩
  · rcases exec_opInstr_cases ht with rfl | ⟨r, rfl⟩
    · exact ⟨fun _ => rfl, fun _ => rfl, fun _ _ _ => rfl⟩
    obtain ⟨-, -, hseg, htxt⟩ := opBody_frame op arg (latch op arg s)
    refine ⟨fun _ => hseg, fun _ => htxt, fun hraw hstr hclear => ?_⟩
    rcases opBody_cases op arg (latch op arg s) with ⟨-, he⟩ | ⟨rfl | rfl | rfl, -⟩ | hw
    · rw [finish_xbuf, he]; rfl
    · exact absurd rfl (hraw arg)
    · exact absurd rfl (hstr arg)
    · exact absurd rfl (hclear arg)
    · exact hw.xbuf
  · cases ht
    exact ⟨fun hseg => absurd rfl (hseg k b), fun _ => bufWrite_seg_txt k b s, fun _ _ _ => bufWrite_xbuf ..⟩
  · cases ht
    exact ⟨fun _ => bufWrite_chr_segbuf k b s, fun hchr => absurd rfl (hchr k b), fun _ _ _ => bufWrite_xbuf ..⟩
  · rw [he] at ht
    have hw := wireByte_wireOnly ht
    exact ⟨fun _ => hw.segbuf, fun _ => hw.txt, fun _ _ _ => hw.xbuf⟩
  · rw [he] at ht; cases ht
    exact ⟨fun _ => rfl, fun _ => rfl, fun _ _ _ => rfl⟩

/-! ### No instruction reads `PHASE` -/

/-- The same state with another `PHASE` (R28). -/
def State.withPhase (s : State) (p : Bool) : State := { s with phase := p }

section
variable (s : State) (p : Bool)

/-- The start condition writes `PHASE` without reading it (R104). -/
theorem startCondition_withPhase : startCondition (s.withPhase p) = startCondition s := by
  simp only [startCondition_eq, State.withPhase]

/-- The stop condition writes `PHASE` without reading it (R105). -/
theorem stopCondition_withPhase : stopCondition (s.withPhase p) = stopCondition s := by
  simp only [stopCondition_eq, State.withPhase]

/-- A frame's start condition has written `PHASE` before anything else of the frame (R140). -/
theorem frame_withPhase (bs : List Byte) : frame bs (s.withPhase p) = frame bs s :=
  congrArg (fun t => stopCondition (sendBytes 0 bs t)) (startCondition_withPhase (beginFrame bs.length s) p)

theorem dropLevel_withPhase : dropLevel (s.withPhase p) = (dropLevel s).withPhase p := by
  unfold dropLevel State.withPhase
  dsimp only
  cases s.rxIn <;> rfl

/-- A byte leaves `PHASE` as it was (R28). -/
theorem sendByte_withPhase (b : Byte) : sendByte b (s.withPhase p) = (sendByte b s).withPhase p := by
  have hc : comingLevel (s.withPhase p) = comingLevel s := comingLevel_congr _ _ rfl rfl
  simp only [sendByte_eq, hc, dropLevel_withPhase]
  rfl

theorem opBody_withPhase (op : BitVec 4) (arg : Byte) :
    ∃ q, opBody op arg (s.withPhase p) = (opBody op arg s).withPhase q := by
  unfold opBody
  split
  case h_1 => exact ⟨_, startCondition_withPhase s p⟩
  case h_2 => exact ⟨_, stopCondition_withPhase s p⟩
  case h_3 => exact ⟨p, sendByte_withPhase s p arg⟩
  case h_4 => exact ⟨_, frame_withPhase (raiseBoth s) p _⟩
  case h_5 => exact ⟨_, frame_withPhase s p _⟩
  case h_6 | h_10 => exact ⟨p, rfl⟩
  case h_7 => exact ⟨_, frame_withPhase (loadXbuf (rawBytes s) s) p _⟩
  case h_8 => exact ⟨_, frame_withPhase (loadXbuf (textBytes arg s) s) p _⟩
  case h_9 => exact ⟨_, frame_withPhase (loadXbuf (zeroBytes s) s) p _⟩

theorem opResult_withPhase (op : BitVec 4) : opResult op (s.withPhase p) = opResult op s := by
  unfold opResult; split <;> rfl

theorem exec_opInstr_withPhase {op : BitVec 4} {arg : Byte} {t : State} (h : exec (opInstr op arg) s = .next t) :
    ∃ q, exec (opInstr op arg) (s.withPhase p) = .next (t.withPhase q) := by
  rw [exec_opInstr] at h ⊢
  by_cases hb : s.busy = true
  · rw [command_busy _ _ _ _ _ hb] at h
    cases h
    exact ⟨p, command_busy _ _ _ _ (s.withPhase p) hb⟩
  · have hb : s.busy = false := by simpa using hb
    rw [command_idle _ _ _ _ _ hb] at h
    cases h
    obtain ⟨q, hq⟩ := opBody_withPhase (latch op arg s) p op arg
    have hl : latch op arg (s.withPhase p) = (latch op arg s).withPhase p := rfl
    refine ⟨q, ?_⟩
    rw [command_idle _ _ _ _ (s.withPhase p) hb, hl, hq, opResult_withPhase]
    rfl

theorem wireByte_withPhase {b : Byte} {t : State} (h : wireByte b s = .next t) :
    wireByte b (s.withPhase p) = .next (t.withPhase p) := by
  unfold wireByte at h ⊢
  split at h
  case isTrue hb => cases h; exact if_pos hb
  case isFalse hb => cases h; exact (if_neg hb).trans (congrArg _ (sendByte_withPhase s p b))

end

/-- Settles O53: a condition or a frame overwrites `PHASE`, everything else carries it along. -/
theorem phaseIsReadByNoInstruction : Obligations.PhaseIsReadByNoInstruction := by
  intro i s t p ht
  show ∃ q, exec i (s.withPhase p) = .next (t.withPhase q)
  rcases exec_kinds i with ⟨op, arg, rfl⟩ | ⟨k, b, rfl⟩ | ⟨k, b, rfl⟩ | ⟨b, he⟩ | ⟨c, he⟩
  · exact exec_opInstr_withPhase s p ht
  · cases ht; exact ⟨p, rfl⟩
  · cases ht; exact ⟨p, rfl⟩
  · rw [he] at ht ⊢; exact ⟨p, wireByte_withPhase s p ht⟩
  · rw [he] at ht ⊢; cases ht; exact ⟨p, rfl⟩

/-- Settles O44: the body of an operation keeps `OP` and `ARG`, and its end clears `STEP`. -/
theorem theCommandWordStaysLatched : Obligations.TheCommandWordStaysLatched := by
  intro op arg s hb
  rw [decodeCmd_append, exec_opInstr, command_idle _ _ _ _ _ hb]
  obtain ⟨hop, harg, -, -⟩ := opBody_frame op arg (latch op arg s)
  exact ⟨_, rfl, ⟨rfl, rfl, rfl⟩, hop, harg, rfl⟩

/-- Settles O49: the first reset is one of the resets, and each meets the invariant. -/
theorem resetMeetsTheInvariant : Obligations.ResetMeetsTheInvariant := powerOn_inv 0

/-- Settles O46: the clamp of `DIGITS_INIT` as a number, the rest as R36 writes it. -/
theorem resetValues : Obligations.ResetValues :=
  ⟨rfl, rfl, clampDigits_toNat Config.digitsInit, rfl, rfl, rfl, rfl, rfl, rfl, rfl⟩

/-- Settles O60: below 6 the address is an entry of `XBUF`, above it is none. -/
theorem outputPorts : Obligations.OutputPorts := by
  intro addr s
  refine ⟨rfl, fun hlt => ?_, fun hge => ?_, rfl, rfl, rfl, rfl, rfl, rfl, rfl⟩
  · simp [outputs, xbufRead, hlt]
  · simp [outputs, xbufRead, hge]

end Sys2Proof.Machine

namespace Sys2Proof.Machine

/-! ### A buffer write as an instruction -/

/-- A write into a vector, read at an entry the vector has. -/
theorem getElem?_setIfInBounds_of_lt {n k : Nat} (v : Vector Byte n) (i : Nat) (b : Byte) (hk : k < n) :
    (v.setIfInBounds i b)[k]? = if k = i then some b else v[k]? := by
  rw [Vector.getElem?_setIfInBounds]
  by_cases hki : k = i
  · rw [if_pos hki.symm, if_pos hki, if_pos (hki ▸ hk)]
  · rw [if_neg (Ne.symm hki), if_neg hki]

/-- Settles O32: `SEG` is the buffer port on `SEGBUF`. -/
theorem segWritesOneEntry : Obligations.SegWritesOneEntry := by
  intro i b s
  exact ⟨_, exec_seg i b s, fun _ hk => getElem?_setIfInBounds_of_lt s.segbuf i.toNat b hk, rfl⟩

/-- Settles O33: `CHR` is the buffer port on `TXT`. -/
theorem chrWritesOneEntry : Obligations.ChrWritesOneEntry := by
  intro i b s
  exact ⟨_, exec_chr i b s, fun _ hk => getElem?_setIfInBounds_of_lt s.txt i.toNat b hk, rfl⟩

/-- A write of `SEGBUF` past its last entry leaves the state as it was (R52). -/
theorem bufWrite_seg_out_of_range {i : BitVec 4} (b : Byte) (s : State) (hi : 6 ≤ i.toNat) :
    bufWrite false i b s = s := by
  have hv : s.segbuf.setIfInBounds i.toNat b = s.segbuf := Vector.setIfInBounds_eq_of_size_le hi
  exact congrArg (fun v => { s with segbuf := v }) hv

/-- A write of `TXT` past its last entry leaves the state as it was (R52). -/
theorem bufWrite_chr_out_of_range {i : BitVec 4} (b : Byte) (s : State) (hi : 12 ≤ i.toNat) :
    bufWrite true i b s = s := by
  have hv : s.txt.setIfInBounds i.toNat b = s.txt := Vector.setIfInBounds_eq_of_size_le hi
  exact congrArg (fun v => { s with txt := v }) hv

/-- Settles O34: `SEG` and `CHR` are the buffer port, which writes nothing past the end. -/
theorem bufferWriteOutOfRangeChangesNothing : Obligations.BufferWriteOutOfRangeChangesNothing := by
  refine ⟨fun i b s hi => ?_, fun i b s hi => ?_⟩
  · have hw := bufWrite_seg_out_of_range b s hi
    exact ⟨by rw [exec_seg, hw], hw⟩
  · have hw := bufWrite_chr_out_of_range b s hi
    exact ⟨by rw [exec_chr, hw], hw⟩

/-! ### Steps that neither read nor write the host's two buffers -/

/-- The same state with other contents of `SEGBUF` and `TXT` (R23, R24). -/
def State.withBuffers (s : State) (sb : Vector Byte 6) (tx : Vector Byte 12) : State :=
  { s with segbuf := sb, txt := tx }

/-- The buffer port writes the two buffers and nothing else (R51). -/
theorem bufWrite_eq_withBuffers (sel : Bool) (i : BitVec 4) (b : Byte) (s : State) :
    bufWrite sel i b s = s.withBuffers
      (if sel then s.segbuf else s.segbuf.setIfInBounds i.toNat b)
      (if sel then s.txt.setIfInBounds i.toNat b else s.txt) := by
  cases sel <;> rfl

/-- The step does the same whatever `SEGBUF` and `TXT` hold, and carries both along. -/
def IgnoresBuffers (f : State → Option State) : Prop :=
  ∀ (s : State) (sb : Vector Byte 6) (tx : Vector Byte 12),
    f (s.withBuffers sb tx) = (f s).map (·.withBuffers sb tx)

/-- A step that ignores the buffers keeps them: put the contents they have in for the other contents. -/
theorem IgnoresBuffers.buffers_eq {f : State → Option State} (hf : IgnoresBuffers f) {s t : State}
    (ht : f s = some t) : t.segbuf = s.segbuf ∧ t.txt = s.txt := by
  have hself : f s = (f s).map (·.withBuffers s.segbuf s.txt) := hf s s.segbuf s.txt
  rw [ht] at hself
  have he : t = t.withBuffers s.segbuf s.txt := Option.some.inj hself
  exact ⟨congrArg (·.segbuf) he, congrArg (·.txt) he⟩

/-- A step that ignores the buffers commutes with the buffer port. -/
theorem IgnoresBuffers.bufWrite_comm {f : State → Option State} (hf : IgnoresBuffers f)
    (sel : Bool) (i : BitVec 4) (b : Byte) (s : State) :
    f (bufWrite sel i b s) = (f s).map (bufWrite sel i b) := by
  rw [bufWrite_eq_withBuffers, hf]
  refine Option.map_congr fun t ht => ?_
  obtain ⟨hseg, htxt⟩ := hf.buffers_eq ht
  rw [bufWrite_eq_withBuffers, hseg, htxt]

/-! ### No event step reads or writes the host's two buffers -/

section
variable (s : State) (sb : Vector Byte 6) (tx : Vector Byte 12)

@[simp] theorem withBuffers_busy : (s.withBuffers sb tx).busy = s.busy := rfl
@[simp] theorem withBuffers_stage : (s.withBuffers sb tx).stage = s.stage := rfl
@[simp] theorem withBuffers_stepIdx : (s.withBuffers sb tx).stepIdx = s.stepIdx := rfl
@[simp] theorem withBuffers_shift : (s.withBuffers sb tx).shift = s.shift := rfl
@[simp] theorem withBuffers_ackv : (s.withBuffers sb tx).ackv = s.ackv := rfl

theorem emit_withBuffers (e : PinEvent) : emit e (s.withBuffers sb tx) = (emit e s).withBuffers sb tx := by
  cases e <;> rfl

theorem dropLevel_withBuffers : dropLevel (s.withBuffers sb tx) = (dropLevel s).withBuffers sb tx := by
  unfold dropLevel State.withBuffers
  dsimp only
  cases s.rxIn <;> rfl

/-- The bytes of a running frame come from `XBUF`, not from the host's buffers (R25, R59). -/
theorem frameByte_withBuffers (k : Nat) : frameByte (s.withBuffers sb tx) k = frameByte s k := by
  cases k <;> rfl

theorem currentByte_withBuffers : currentByte (s.withBuffers sb tx) = currentByte s := by
  unfold currentByte
  rw [frameByte_withBuffers]
  rfl

end

theorem startFrameByte_ignoresBuffers (k : Nat) : IgnoresBuffers (startFrameByte k) := by
  intro s sb tx
  unfold startFrameByte
  rw [frameByte_withBuffers]
  cases frameByte s k <;> rfl

theorem tickSilent_ignoresBuffers : IgnoresBuffers tickSilent := by
  intro s sb tx
  simp only [tickSilent, apply_ite (Option.map _)]
  exact if_congr Iff.rfl rfl (if_congr Iff.rfl rfl rfl)

theorem tickStart_ignoresBuffers : IgnoresBuffers tickStart := by
  intro s sb tx
  unfold tickStart
  rw [withBuffers_stepIdx]
  split
  case h_3 =>
    rw [apply_ite (Option.map _)]
    exact if_congr Iff.rfl rfl (startFrameByte_ignoresBuffers 0 (endStart s) sb tx)
  all_goals rfl

theorem tickBit_ignoresBuffers : IgnoresBuffers tickBit := by
  intro s sb tx
  simp only [tickBit, withBuffers_stepIdx, withBuffers_shift, emit_withBuffers]
  split <;> rfl

theorem byteDone_ignoresBuffers : IgnoresBuffers byteDone := by
  intro s sb tx
  unfold byteDone
  rw [currentByte_withBuffers]
  cases currentByte s with
  | none => rfl
  | some b =>
    simp only [apply_ite (Option.map _)]
    exact if_congr Iff.rfl rfl (if_congr Iff.rfl rfl (if_congr Iff.rfl rfl
      (startFrameByte_ignoresBuffers _ { s with rx := s.rx.onByte b s.ackv } sb tx)))

theorem tickAck_ignoresBuffers (r : Level) : IgnoresBuffers (tickAck r) := by
  intro s sb tx
  unfold tickAck
  rw [withBuffers_stepIdx, withBuffers_ackv]
  split
  case h_7 =>
    have hs : sampleAt r (s.withBuffers sb tx) = (sampleAt r s).withBuffers sb tx := rfl
    simp only [hs, withBuffers_ackv]
    split <;> rfl
  case h_8 => split <;> rfl
  case h_11 => exact byteDone_ignoresBuffers (emit .delay s) sb tx
  all_goals rfl

theorem tickStop_ignoresBuffers : IgnoresBuffers tickStop := by
  intro s sb tx
  unfold tickStop
  rw [withBuffers_stepIdx]
  split
  case h_5 =>
    simp only [apply_ite (Option.map _)]
    exact if_congr Iff.rfl rfl (if_congr Iff.rfl rfl rfl)
  all_goals rfl

/-- An event of a running operation is the same whatever `SEGBUF` and `TXT` hold (R59). -/
theorem tick_ignoresBuffers (r : Level) : IgnoresBuffers (tick r) := by
  intro s sb tx
  unfold tick
  rw [withBuffers_stage]
  split
  case h_1 => exact tickSilent_ignoresBuffers s sb tx
  case h_2 =>
    rw [apply_ite (Option.map _)]
    exact if_congr Iff.rfl rfl rfl
  case h_3 => exact tickStart_ignoresBuffers s sb tx
  case h_4 =>
    simp only [apply_ite (Option.map _)]
    exact if_congr Iff.rfl (tickAck_ignoresBuffers r s sb tx) (if_congr Iff.rfl (tickBit_ignoresBuffers s sb tx) rfl)
  case h_5 => exact tickStop_ignoresBuffers s sb tx

theorem tickInput_ignoresBuffers : IgnoresBuffers tickInput := by
  intro s sb tx
  have hdrop : (tick (comingLevel s 0) (s.withBuffers sb tx)).map dropLevel =
      ((tick (comingLevel s 0) s).map dropLevel).map (·.withBuffers sb tx) := by
    rw [tick_ignoresBuffers]
    simp only [Option.map_map, Function.comp_def, dropLevel_withBuffers]
  unfold tickInput
  rw [apply_ite (Option.map _)]
  exact if_congr Iff.rfl hdrop (tick_ignoresBuffers true s sb tx)

/-- The rest of a run is the same whatever `SEGBUF` and `TXT` hold (R59). -/
theorem runEvents_ignoresBuffers (n : Nat) : IgnoresBuffers (runEvents n) := by
  induction n with
  | zero => exact fun _ _ _ => rfl
  | succ n ih =>
    intro s sb tx
    unfold runEvents
    rw [withBuffers_busy, tickInput_ignoresBuffers]
    split
    · cases tickInput s with
      | none => rfl
      | some t => exact ih t sb tx
    · rfl

/-- Settles O35: an event, and the rest of the run, ignore the buffers, so they commute with the buffer port. -/
theorem bufferWritesDoNotTouchARunningOperation : Obligations.BufferWritesDoNotTouchARunningOperation :=
  ⟨fun sel i b r s => (tick_ignoresBuffers r).bufWrite_comm sel i b s,
   fun n sel i b s => (runEvents_ignoresBuffers n).bufWrite_comm sel i b s⟩

/-! ### The buffers in a clock cycle -/

/-- The state in which a clock cycle's event or acceptance happens: `done` has fallen, the buffer port has written
(R51; log 8). -/
def afterBufferPort (p : PortIn) (s : State) : State :=
  if p.bufWe then bufWrite p.bufSel p.bufAddr p.bufWdata (clearDone s) else clearDone s

/-- Everything a clock cycle without reset can do: the buffer port first, then an event of the running operation, an
acceptance, or nothing (R33, R148). -/
theorem clockCycle_cases {p : PortIn} {s t : State} (hr : p.rstN = true) (ht : clockCycle p s = .next t) :
    ((afterBufferPort p s).busy = true ∧ tick p.rxSda (afterBufferPort p s) = some t) ∨
    ((afterBufferPort p s).busy = false ∧ p.cmdValid = true ∧
      t = accept p.cmdOp p.cmdArg (afterBufferPort p s)) ∨
    ((afterBufferPort p s).busy = false ∧ p.cmdValid = false ∧ t = afterBufferPort p s) := by
  unfold clockCycle at ht
  rw [if_neg (by simp [hr])] at ht
  change (if (afterBufferPort p s).busy then _ else _) = _ at ht
  split at ht
  case isTrue hb =>
    split at ht
    case h_1 u hu => cases ht; exact .inl ⟨hb, hu⟩
    case h_2 => cases ht
  case isFalse hb =>
    have hb : (afterBufferPort p s).busy = false := by simpa using hb
    split at ht
    case isTrue hv => cases ht; exact .inr (.inl ⟨hb, hv, rfl⟩)
    case isFalse hv => cases ht; exact .inr (.inr ⟨hb, by simpa using hv, rfl⟩)

/-- An acceptance reads the host's buffers and writes neither (R148). -/
theorem accept_buffers (op : BitVec 4) (arg : Byte) (s : State) :
    (accept op arg s).segbuf = s.segbuf ∧ (accept op arg s).txt = s.txt := by
  unfold accept
  split <;> exact ⟨rfl, rfl⟩

/-- After the buffer port's part of a clock cycle the cycle changes neither buffer. -/
theorem clockCycle_buffers {p : PortIn} {s t : State} (hr : p.rstN = true) (ht : clockCycle p s = .next t) :
    t.segbuf = (afterBufferPort p s).segbuf ∧ t.txt = (afterBufferPort p s).txt := by
  rcases clockCycle_cases hr ht with ⟨-, htick⟩ | ⟨-, -, rfl⟩ | ⟨-, -, rfl⟩
  · exact (tick_ignoresBuffers p.rxSda).buffers_eq htick
  · exact accept_buffers p.cmdOp p.cmdArg _
  · exact ⟨rfl, rfl⟩

theorem afterBufferPort_segbuf (p : PortIn) (s : State) :
    (afterBufferPort p s).segbuf =
      if p.bufWe && !p.bufSel then s.segbuf.setIfInBounds p.bufAddr.toNat p.bufWdata else s.segbuf := by
  unfold afterBufferPort
  cases p.bufWe <;> cases p.bufSel <;> rfl

theorem afterBufferPort_txt (p : PortIn) (s : State) :
    (afterBufferPort p s).txt =
      if p.bufWe && p.bufSel then s.txt.setIfInBounds p.bufAddr.toNat p.bufWdata else s.txt := by
  unfold afterBufferPort
  cases p.bufWe <;> cases p.bufSel <;> rfl

/-- Settles O36: the buffer port's part of the cycle is the whole of what the cycle does to the buffers. -/
theorem bufferPortWritesAtOnce : Obligations.BufferPortWritesAtOnce := by
  intro p s t hr ht
  obtain ⟨hseg, htxt⟩ := clockCycle_buffers hr ht
  exact ⟨hseg.trans (afterBufferPort_segbuf p s), htxt.trans (afterBufferPort_txt p s)⟩

/-! ### Events without their delays -/

/-- A `DELAY` moves no line (R102), so the lines end the same without the `DELAY`s. -/
theorem foldl_after_filter_delay (es : List PinEvent) (l : Lines) :
    (es.filter (· ≠ .delay)).foldl Lines.after l = es.foldl Lines.after l := by
  have hstep : (fun l e => if decide (e ≠ PinEvent.delay) = true then Lines.after l e else l) = Lines.after := by
    funext l e
    cases e <;> rfl
  rw [List.foldl_filter, hstep]

/-- Settles O56: events move the lines and lengthen the trace, and a `DELAY` moves no line. -/
theorem droppingDelaysChangesNoLine : Obligations.DroppingDelaysChangesNoLine := by
  intro es s
  rw [emits_eq, emits_eq, foldl_after_filter_delay]

/-! ### Where an acknowledged burst lands -/

/-- The receiver `t` has taken the segment bytes `bs` from address `n` on, where `r` stood; all else known is as in `r`
(R55, R61). -/
structure Landed (r : Receiver) (n : Nat) (bs : List Byte) (t : Receiver) : Prop where
  place : t.place = .address (n + bs.length)
  dataMode : t.dataMode = true
  display : t.display = r.display
  read : ∀ k, t.mem.read k = if n ≤ k ∧ k < n + bs.length then bs[k - n]? else r.mem.read k

/-- An acknowledged byte at one of the six addresses is written there, and the address rises (R55, R61). -/
theorem onByte_segment {r : Receiver} {n : Nat} (b : Byte) (hp : r.place = .address n) (hd : r.dataMode = true)
    (hn : n < 6) : r.onByte b false = { r with place := .address (n + 1), mem := r.mem.write n b } := by
  simp [Receiver.onByte, hp, Receiver.onSegment, hd, maxDigits, hn]

/-- Bytes that landed after a first one landed with it. -/
theorem Landed.cons {r t : Receiver} {n : Nat} {b : Byte} {bs : List Byte}
    (h : Landed { r with place := .address (n + 1), mem := r.mem.write n b } (n + 1) bs t) :
    Landed r n (b :: bs) t where
  place := by rw [h.place, List.length_cons, Nat.add_right_comm, Nat.add_assoc]
  dataMode := h.dataMode
  display := h.display
  read k := by
    rw [h.read k, List.length_cons]
    rcases Nat.lt_trichotomy k n with hlt | rfl | hgt
    · rw [if_neg (by omega), if_neg (by omega), Memory.read_write_other _ _ _ _ (by omega)]
    · rw [if_neg (by omega), if_pos (by omega), Memory.read_write_same, Nat.sub_self]
      rfl
    · obtain ⟨j, rfl⟩ : ∃ j, k = n + 1 + j := ⟨k - (n + 1), by omega⟩
      have hj : n + 1 + j - n = j + 1 := by omega
      rw [Nat.add_sub_cancel_left, hj, List.getElem?_cons_succ, Memory.read_write_other _ _ _ _ (by omega)]
      exact if_congr (by omega) rfl rfl

/-- Acknowledged segment bytes land one after another, as long as there are addresses for them (R55, R61; log 15). -/
theorem foldl_onByte_landed (bs : List Byte) (r : Receiver) (n : Nat) (hp : r.place = .address n)
    (hd : r.dataMode = true) (hn : n + bs.length ≤ 6) :
    Landed r n bs (bs.foldl (fun r b => r.onByte b false) r) := by
  induction bs generalizing r n with
  | nil => exact ⟨hp, hd, rfl, fun k => (if_neg (by simp)).symm⟩
  | cons b bs ih =>
    rw [List.length_cons] at hn
    have hrest := ih { r with place := .address (n + 1), mem := r.mem.write n b } (n + 1) rfl hd (by omega)
    rw [List.foldl_cons, onByte_segment b hp hd (by omega)]
    exact hrest.cons

/-- What an acknowledged frame tells the receiver: its start condition, its bytes in order, its stop condition. -/
theorem frame_rx_acked (bs : List Byte) (s : State) (h : ∀ j, j < bs.length → comingLevel s j = false) :
    (frame bs s).rx =
      (bs.foldl (fun r b => r.onByte b false) (s.rx.onRaise s.scl s.sda).onStart).onStop := by
  have hrx : (startCondition (beginFrame bs.length s)).rx = (s.rx.onRaise s.scl s.sda).onStart := by
    rw [startCondition_eq]
    rfl
  rw [frame, stopCondition_eq, sendBytes_rx_acked _ _ _ (by rwa [comingLevel_frameStart]), hrx]

/-- The start condition of a frame that begins on idle lines outside any frame opens it (R104, R112). -/
theorem onRaise_onStart_of_idle {r : Receiver} {scl sda : Level} (hc : scl = true) (hd : sda = true)
    (hp : r.place = .outside) : (r.onRaise scl sda).onStart = { r with place := .command } := by
  simp [Receiver.onRaise, hc, hd, hp, Receiver.onStart]

/-- The address command, acknowledged, sets the address to 0 (R76). -/
theorem onByte_addrCmd {r : Receiver} (hp : r.place = .command) :
    r.onByte addrCmd false = { r with place := .address 0 } := by
  have hdec : decodeWire addrCmd = .ok .wAddrCmd := rfl
  simp [Receiver.onByte, hp, Receiver.onCommand, hdec]

/-- The stop condition after a burst closes the frame and changes nothing else known (R105, R80). -/
theorem onStop_of_address {r : Receiver} {n : Nat} (hp : r.place = .address n) :
    r.onStop = { r with place := .outside } := by
  simp [Receiver.onStop, hp]

/-- A burst from this state is taken whole: the digit count is in range, the lines are idle, the receiver stands outside
a frame in data mode, and acknowledges the address command and every position's byte. -/
structure BurstTaken (s : State) : Prop where
  digits : digitsLegal s = true
  scl : s.scl = true
  sda : s.sda = true
  place : s.rx.place = .outside
  dataMode : s.rx.dataMode = true
  acked : ∀ k, k ≤ s.digits.toNat → comingLevel s k = false

/-- The bytes of a burst that is taken whole, one per position, land from address 0 on; all else known of the receiver
stays (R55, R61, R80). -/
theorem burst_lands {s : State} {bs cs : List Byte} (h : BurstTaken s) (hl : bs.length = s.digits.toNat)
    (hcs : ∀ k, k < s.digits.toNat → bs[k]? = cs[k]?) :
    (burst bs s).rx.place = .outside ∧ (burst bs s).rx.dataMode = true ∧
      (burst bs s).rx.display = s.rx.display ∧
      ∀ k, (burst bs s).rx.mem.read k = if k < s.digits.toNat then cs[k]? else s.rx.mem.read k := by
  have h6 : s.digits.toNat ≤ 6 := ((digitsLegal_iff s).1 h.digits).2
  have hland := foldl_onByte_landed bs { s.rx with place := .address 0 } 0 rfl h.dataMode (by omega)
  have hrx : (burst bs s).rx =
      { bs.foldl (fun r b => r.onByte b false) { s.rx with place := .address 0 } with place := .outside } := by
    rw [burst, burstBytes_loadXbuf bs s h.digits hl, frame_rx_acked, List.foldl_cons, loadXbuf_rx, loadXbuf_scl,
      loadXbuf_sda, onRaise_onStart_of_idle h.scl h.sda h.place, onByte_addrCmd rfl, onStop_of_address hland.place]
    intro j hj
    rw [comingLevel_loadXbuf]
    exact h.acked j (by rw [List.length_cons] at hj; omega)
  rw [hrx]
  refine ⟨rfl, hland.dataMode, hland.display, fun k => ?_⟩
  have hread := hland.read k
  simp only [Nat.zero_le, true_and, Nat.zero_add, Nat.sub_zero, hl] at hread
  refine hread.trans ?_
  split
  case isTrue hk => exact hcs k hk
  case isFalse => rfl

/-- A command whose body is a burst that is taken whole (R145, R146, R186): the burst lands, and acceptance and end tell
the receiver nothing. -/
theorem command_burst_lands {op : BitVec 4} {arg : Byte} {body : State → State} {s : State} {bs cs : List Byte}
    (hb : s.busy = false) (h : BurstTaken s) (hbody : body (latch op arg s) = burst bs (latch op arg s))
    (hl : bs.length = s.digits.toNat) (hcs : ∀ k, k < s.digits.toNat → bs[k]? = cs[k]?) :
    ∃ t, command op arg body frameResult s = .next t ∧ t.rx.place = .outside ∧ t.rx.dataMode = true ∧
      t.rx.display = s.rx.display ∧
      ∀ k, t.rx.mem.read k = if k < s.digits.toNat then cs[k]? else s.rx.mem.read k := by
  have htaken : BurstTaken (latch op arg s) :=
    ⟨h.digits, h.scl, h.sda, h.place, h.dataMode, by rw [comingLevel_latch]; exact h.acked⟩
  refine ⟨_, command_idle _ _ _ _ _ hb, ?_⟩
  rw [finish_rx, hbody]
  exact burst_lands htaken hl hcs

/-- With the digit count in range the text is encoded for that many positions (R186). -/
theorem textBytes_eq_textWalk (n : Byte) (s : State) (hd : digitsLegal s = true) :
    textBytes n s = textWalk segOf s.txt (min n.toNat 12) s.digits.toNat 0 := by
  rw [textBytes, Nat.min_eq_left ((digitsLegal_iff s).1 hd).2]
  rfl

/-- With the digit count in range `CLEAR` loads that many zero bytes (R146). -/
theorem zeroBytes_eq_replicate (s : State) (hd : digitsLegal s = true) :
    zeroBytes s = List.replicate s.digits.toNat 0 := by
  rw [zeroBytes, Nat.min_eq_left ((digitsLegal_iff s).1 hd).2]

/-- Settles O40: each burst loads one byte per position, and the bytes of an acknowledged burst land from address 0. -/
theorem burstLandsFromAddressZero : Obligations.BurstLandsFromAddressZero := by
  intro arg s hb hd hscl hsda hp hm hack c hc
  have h : BurstTaken s := ⟨hd, hscl, hsda, hp, hm, hack⟩
  simp only [List.mem_cons, List.not_mem_nil, or_false] at hc
  rcases hc with rfl | rfl | rfl
  · exact command_burst_lands (bs := rawBytes s) hb h rfl (rawBytes_length s hd)
      fun k hk => List.getElem?_take_of_lt hk
  · exact command_burst_lands (bs := textBytes arg s) hb h rfl (textBytes_length arg s hd)
      fun k _ => by rw [textBytes_eq_textWalk arg s hd]
  · exact command_burst_lands (bs := zeroBytes s) hb h rfl (zeroBytes_length s hd)
      fun k _ => by rw [zeroBytes_eq_replicate s hd]

end Sys2Proof.Machine

namespace Sys2Proof.Machine

/-! ### Command words -/

/-- A word is its upper field above its lower field. -/
theorem exists_eq_append {m n : Nat} (w : BitVec (m + n)) : ∃ (hi : BitVec m) (lo : BitVec n), w = hi ++ lo :=
  ⟨_, _, BitVec.extractLsb'_append_extractLsb'.symm⟩

/-- The sixteen command codes, written out (R71, R73). -/
theorem op_mem_codes (op : BitVec 4) :
    op ∈ [0x0#4, 0x1#4, 0x2#4, 0x3#4, 0x4#4, 0x5#4, 0x6#4, 0x7#4, 0x8#4, 0x9#4, 0xA#4, 0xB#4, 0xC#4, 0xD#4, 0xE#4,
      0xF#4] := by
  revert op; decide

/-- The word of an operation is its code above its argument (R70). -/
theorem encode_opInstr (op : BitVec 4) (arg : Byte) : encode (opInstr op arg) = .cmd (op ++ arg) := by
  have h := op_mem_codes op
  simp only [List.mem_cons, List.not_mem_nil, or_false] at h
  rcases h with rfl | rfl | rfl | rfl | rfl | rfl | rfl | rfl | rfl | rfl | rfl | rfl | rfl | rfl | rfl | rfl <;> rfl

theorem wellFormed_opInstr (op : BitVec 4) (arg : Byte) : WellFormed (opInstr op arg) = true := by
  unfold opInstr; split <;> rfl

/-! ### Buffer words -/

/-- The buffer write of entry `i`, in `TXT` when `sel` is 1 and in `SEGBUF` when it is 0 (R51). -/
def bufInstr (sel : Bool) (i : BitVec 4) (b : Byte) : Instr := if sel then .chr i b else .seg i b

/-- The word of a buffer write is `{buf_sel, buf_addr, buf_wdata}` (R51). -/
theorem encode_bufInstr (sel : Bool) (i : BitVec 4) (b : Byte) :
    encode (bufInstr sel i b) = .buf (BitVec.ofBool sel ++ i ++ b) := by
  cases sel <;> rfl

theorem wellFormed_bufInstr (sel : Bool) (i : BitVec 4) (b : Byte) : WellFormed (bufInstr sel i b) = true := by
  cases sel <;> rfl

theorem exec_bufInstr (sel : Bool) (i : BitVec 4) (b : Byte) (s : State) :
    exec (bufInstr sel i b) s = .next (bufWrite sel i b s) := by
  cases sel <;> rfl

/-- A buffer word is read field by field (R51). -/
theorem decodeBuf_append (sel : Bool) (i : BitVec 4) (b : Byte) :
    decodeBuf (BitVec.ofBool sel ++ i ++ b) = bufInstr sel i b := by
  have hsel : (BitVec.ofBool sel ++ i ++ b : BitVec 13).getLsbD 12 = sel := by
    rw [BitVec.getLsbD_append, if_neg (by decide), BitVec.getLsbD_append, if_neg (by decide)]
    exact BitVec.getLsbD_ofBool sel 0
  have hi : (BitVec.ofBool sel ++ i ++ b : BitVec 13).extractLsb' 8 4 = i :=
    (BitVec.extractLsb'_append_eq_of_le (Nat.le_refl 8)).trans BitVec.extractLsb'_append_eq_right
  have hb : (BitVec.ofBool sel ++ i ++ b : BitVec 13).extractLsb' 0 8 = b := BitVec.extractLsb'_append_eq_right
  rw [decodeBuf, hsel, hi, hb, bufInstr]

/-- Every buffer word has the three fields (R51). -/
theorem exists_buf_fields (w : BitVec 13) :
    ∃ (sel : Bool) (i : BitVec 4) (b : Byte), w = BitVec.ofBool sel ++ i ++ b := by
  obtain ⟨hi, b, rfl⟩ := exists_eq_append (m := 5) (n := 8) w
  obtain ⟨c, i, rfl⟩ := exists_eq_append (m := 1) (n := 4) hi
  have hc : ∃ sel, c = BitVec.ofBool sel := by revert c; decide
  obtain ⟨sel, rfl⟩ := hc
  exact ⟨sel, i, b, rfl⟩

/-! ### Wire command bytes -/

/-- The wire command byte of display on is `0b10001` above its brightness sub-field (R77). -/
theorem decodeWire_dispOn (bbb : BitVec 3) : decodeWire (0b10001#5 ++ bbb) = .ok (.wDispOn bbb) := by
  revert bbb; decide

/-- A byte with the bits of display on is `0b10001` above its three low bits (R77). -/
theorem append_extract_of_dispOn {b : Byte} (h : b &&& 0xF8 = 0x88) : 0b10001#5 ++ b.extractLsb' 0 3 = b := by
  revert b; decide

/-! ### Character codes -/

/-- The codes that are a SEGROM row of their own, the twenty letters apart (R181, R182). -/
def plainCodes : List Byte := [0x2D, 0x31, 0x32, 0x33, 0x34, 0x35, 0x20, 0x30, 0x36, 0x37, 0x38, 0x39]

/-- The mapped codes are the plain ones and the letters of the subset (R181 to R183). -/
theorem isMappedCode_iff (c : Byte) :
    isMappedCode c = true ↔ c ∈ plainCodes ∨ isSubsetLetter (c &&& 0xDF) = true := by
  revert c; decide

/-- A code that is no plain one is looked up as a letter, and is OTHER when it is none (R183, R184). -/
theorem decodeCode_of_not_plain {c : Byte} (h : c ∉ plainCodes) :
    decodeCode c = (decodeLetter (c &&& 0xDF) (c.getLsbD 5)).getD (.segromOther c) := by
  unfold decodeCode
  split
  case h_13 => rfl
  all_goals exact absurd (by decide) h

/-- The letters that decode are the twenty of the subset (R183). -/
theorem decodeLetter_eq_none_iff (upper : Byte) (lower : Bool) :
    decodeLetter upper lower = none ↔ isSubsetLetter upper = false := by
  unfold decodeLetter isSubsetLetter
  split <;> simp_all

/-- A letter decodes to the row of its own code, and the row is well-formed (R183). -/
theorem encode_of_decodeLetter {upper : Byte} {lower : Bool} {i : Instr} (h : decodeLetter upper lower = some i) :
    WellFormed i = true ∧ encode i = .code (letterCode upper lower) := by
  unfold decodeLetter at h
  split at h <;> cases h <;> exact ⟨rfl, rfl⟩

/-- A code is the letter code of its upper case and its case bit, when its upper case is a letter (R82, R183). -/
theorem letterCode_upper (c : Byte) : letterCode (c &&& 0xDF) (c.getLsbD 5) = c := by
  revert c; decide

/-- A code no row but OTHER matches decodes to OTHER (R184). -/
theorem decodeCode_of_unmapped {c : Byte} (h : isMappedCode c = false) : decodeCode c = .segromOther c := by
  have hm := (isMappedCode_iff c).not.1 (by simp [h])
  obtain ⟨hplain, hletter⟩ := not_or.1 hm
  rw [decodeCode_of_not_plain hplain, (decodeLetter_eq_none_iff ..).2 (by simpa using hletter), Option.getD_none]

/-- The row a code decodes to is well-formed and has that code (R181 to R184). -/
theorem encode_decodeCode (c : Byte) : WellFormed (decodeCode c) = true ∧ encode (decodeCode c) = .code c := by
  by_cases hplain : c ∈ plainCodes
  · simp only [plainCodes, List.mem_cons, List.not_mem_nil, or_false] at hplain
    rcases hplain with rfl | rfl | rfl | rfl | rfl | rfl | rfl | rfl | rfl | rfl | rfl | rfl <;> exact ⟨rfl, rfl⟩
  rw [decodeCode_of_not_plain hplain]
  cases hl : decodeLetter (c &&& 0xDF) (c.getLsbD 5) with
  | some i =>
    have he := encode_of_decodeLetter hl
    rwa [letterCode_upper] at he
  | none =>
    have hletter := (decodeLetter_eq_none_iff ..).1 hl
    have hm : isMappedCode c = false := by
      rw [Bool.eq_false_iff, ne_eq, isMappedCode_iff, hletter]
      simp [hplain]
    exact ⟨by simp [WellFormed, hm], rfl⟩

/-! ### The round trips -/

/-- Settles O2: the command and buffer words field by field, the wire and character codes one by one, and OTHER for the
codes no other row takes. -/
theorem decodeOfEncode : Obligations.DecodeOfEncode := by
  intro i hi
  cases i with
  | tStart a | tStop a | tByte a | init a | setBright a | setDigits a | writeRaw a | writeStr a | clear a
  | reserved0 a | reservedA a | reservedB a | reservedC a | reservedD a | reservedE a | reservedF a =>
    exact congrArg Except.ok (decodeCmd_append _ a)
  | seg k b => exact congrArg Except.ok (decodeBuf_append false k b)
  | chr k b => exact congrArg Except.ok (decodeBuf_append true k b)
  | wDispOn bbb => exact decodeWire_dispOn bbb
  | segromA l | segromB l | segromC l | segromD l | segromE l | segromF l | segromG l | segromH l | segromI l
  | segromJ l | segromL l | segromN l | segromO l | segromP l | segromQ l | segromR l | segromS l | segromT l
  | segromU l | segromY l => cases l <;> rfl
  | segromOther c =>
    have hm : isMappedCode c = false := by simpa [WellFormed] using hi
    exact congrArg Except.ok (decodeCode_of_unmapped hm)
  | _ => rfl

/-- The rows of the wire command bytes (R74 to R77). -/
theorem encode_of_decodeWire {b : Byte} {i : Instr} (h : decodeWire b = .ok i) :
    WellFormed i = true ∧ encode i = .wire b := by
  unfold decodeWire at h
  split_ifs at h with h40 hC0 h80 hon <;> cases h
  · exact ⟨rfl, congrArg FetchWord.wire h40.symm⟩
  · exact ⟨rfl, congrArg FetchWord.wire hC0.symm⟩
  · exact ⟨rfl, congrArg FetchWord.wire h80.symm⟩
  · exact ⟨rfl, congrArg FetchWord.wire (append_extract_of_dispOn hon)⟩

/-- Settles O3: each format's word is put together again from the fields its decoder reads. -/
theorem encodeOfDecode : Obligations.EncodeOfDecode := by
  intro w i h
  cases w with
  | cmd w =>
    obtain ⟨op, arg, rfl⟩ := exists_eq_append (m := 4) (n := 8) w
    rw [decode, decodeCmd_append] at h
    cases h
    exact ⟨wellFormed_opInstr op arg, encode_opInstr op arg⟩
  | buf w =>
    obtain ⟨sel, k, b, rfl⟩ := exists_buf_fields w
    rw [decode, decodeBuf_append] at h
    cases h
    exact ⟨wellFormed_bufInstr sel k b, encode_bufInstr sel k b⟩
  | wire b => exact encode_of_decodeWire h
  | code c =>
    cases h
    exact encode_decodeCode c

/-- Settles O1: each sample word, evaluated. -/
theorem sampleWordsDecode : Obligations.SampleWordsDecode := by
  unfold Obligations.SampleWordsDecode
  decide

/-! ### Wire command bytes between operations -/

/-- A step whose action is a word that is no instruction is refused by the decoder's reason (R78; log 19). -/
theorem step_word_of_decode_error {s : State} {w : FetchWord} {rest : List HostAct} {e : DecodeError}
    (hbusy : s.busy = false) (hhost : s.host = .word w :: rest) (hdec : decode w = .error e) :
    step s = .refused (.notAnInstruction e) := by
  simp [step, hhost, hbusy, hdec]

/-- The bytes with the bits of display on are `0x88` to `0x8F` (R77). -/
theorem dispOn_range {b : Byte} (h : b &&& 0xF8 = 0x88) : 0x88 ≤ b.toNat ∧ b.toNat ≤ 0x8F := by
  revert b; decide

/-- Settles O4: such a byte meets none of the decoder's four tests. -/
theorem undefinedWireByteIsRefused : Obligations.UndefinedWireByteIsRefused := by
  intro b s rest hbusy hhost h40 hC0 h80 hrange
  have hon : b &&& 0xF8 ≠ 0x88 := fun h => by
    obtain ⟨hlo, hhi⟩ := dispOn_range h
    omega
  refine step_word_of_decode_error hbusy hhost ?_
  rw [decode, decodeWire, if_neg h40, if_neg hC0, if_neg h80, if_neg hon]

theorem wireByte_idle {b : Byte} {s : State} (h : s.busy = false) : wireByte b s = .next (sendByte b s) := by
  simp [wireByte, h]

/-- The wire command byte of display on, as a number (R77). -/
theorem dispOn_eq_ofNat (bbb : BitVec 3) : dispOn bbb = BitVec.ofNat 8 (0x88 + bbb.toNat) := by
  revert bbb; decide

/-- The byte sender between operations: the byte's events, the line and `ACKV` at the level that comes, the stores and
the position as before (R74, R108). -/
theorem wireByte_sends (b : Byte) {s : State} (h : s.busy = false) :
    ∃ t, wireByte b s = .next t ∧ t.trace = s.trace ++ byteEvents b (comingLevel s 0) ∧
      t.scl = false ∧ t.sda = comingLevel s 0 ∧ t.ackv = comingLevel s 0 ∧ t.shift = 0 ∧
      t.phase = s.phase ∧ t.err = s.err ∧ t.byteIdx = s.byteIdx ∧ t.nbytes = s.nbytes ∧ WireOnly s t := by
  refine ⟨_, wireByte_idle h, ?_⟩
  have hw := sendByte_wireOnly b s
  rw [sendByte_eq] at hw ⊢
  exact ⟨rfl, rfl, rfl, rfl, rfl, dropLevel_phase s, dropLevel_err s, dropLevel_byteIdx s, dropLevel_nbytes s, hw⟩

/-- Settles O38: each of the four rows is the byte sender with its byte. -/
theorem wireCommandBytesAreSentLikeAnyByte : Obligations.WireCommandBytesAreSentLikeAnyByte := by
  intro bbb s hb c hc
  simp only [List.mem_cons, List.not_mem_nil, or_false] at hc
  rcases hc with rfl | rfl | rfl | rfl
  · exact wireByte_sends dataCmd hb
  · exact wireByte_sends addrCmd hb
  · exact wireByte_sends dispOff hb
  · rw [exec_wDispOn, dispOn_eq_ofNat]
    exact wireByte_sends _ hb

/-- An acknowledged byte right after a start condition is taken as a wire command byte (R12, R34). -/
theorem wireByte_rx_command (b : Byte) {s : State} (hb : s.busy = false) (hp : s.rx.place = .command)
    (hack : comingLevel s 0 = false) : ∃ t, wireByte b s = .next t ∧ t.rx = s.rx.onCommand b := by
  refine ⟨_, wireByte_idle hb, ?_⟩
  rw [sendByte_eq]
  simp [Receiver.onByte, hack, hp]

theorem onCommand_dispOn (r : Receiver) (bbb : BitVec 3) :
    r.onCommand (dispOn bbb) = { r with place := .complete, display := some (true, bbb) } := by
  have hdec : decodeWire (dispOn bbb) = .ok (.wDispOn bbb) := by revert bbb; decide
  rw [Receiver.onCommand, hdec]

/-- Settles O39: the receiver decodes the four bytes to their rows. -/
theorem receiverTakesAcknowledgedCommands : Obligations.ReceiverTakesAcknowledgedCommands := by
  intro bbb s hb hp hack
  refine ⟨wireByte_rx_command dataCmd hb hp hack, wireByte_rx_command addrCmd hb hp hack,
    wireByte_rx_command dispOff hb hp hack, ?_⟩
  rw [exec_wDispOn, ← onCommand_dispOn]
  exact wireByte_rx_command (dispOn bbb) hb hp hack

/-! ### Reserved codes -/

/-- A command without events whose result is 1: the latch, `RESULT` and the end are all it writes (R73; log 7). -/
theorem reserved_only_sets_result (op : BitVec 4) (arg : Byte) {s : State} (h : s.busy = false) :
    ∃ t, command op arg noEvents reservedResult s = .next t ∧ t.result = true ∧ NoEvent s t ∧ SameStores s t ∧
      SameSerializer s t ∧ SameInputs s t ∧ Ended t :=
  ⟨_, command_idle op arg noEvents reservedResult s h, rfl, ⟨rfl, rfl, rfl, rfl, rfl⟩,
    ⟨rfl, rfl, rfl, rfl, rfl, rfl⟩, ⟨rfl, rfl, rfl, rfl, rfl, rfl⟩, ⟨rfl, rfl⟩, ⟨rfl, rfl, rfl⟩⟩

/-- Settles O37: the seven codes are one operation, each under its own code. -/
theorem reservedCodesOnlySetTheResult : Obligations.ReservedCodesOnlySetTheResult := by
  intro arg s hb c hc
  simp only [List.mem_cons, List.not_mem_nil, or_false] at hc
  rcases hc with rfl | rfl | rfl | rfl | rfl | rfl | rfl <;> exact reserved_only_sets_result _ arg hb

/-! ### The lines of a script -/

/-- One step of a run that answers a next state (R83). -/
theorem run_succ {n : Nat} {s t : State} (h : step s = .next t) :
    Host.Core.run core (n + 1) s = Host.Core.run core n t := by
  simp only [Host.Core.run]
  rw [show core.step s = .next t from h]

/-- A run of one step is the step. -/
theorem run_one (s : State) : Host.Core.run core 1 s = step s := by
  simp only [Host.Core.run]
  cases h : core.step s <;> exact h.symm

/-- A script line between operations executes its instruction (R83). -/
theorem step_line {i : Instr} {s : State} {rest : List HostAct} (hi : WellFormed i = true) (hb : s.busy = false)
    (hh : s.host = line i :: rest) : step s = exec i (takeAction rest s) :=
  step_word_of_decode hb hh (decodeOfEncode i hi)

/-- The lines that write `bs` from entry `k` on, into `TXT` when `sel` is 1 and into `SEGBUF` when it is 0 (R84). -/
def bufLines (sel : Bool) (k : Nat) (bs : List Byte) : List HostAct := if sel then chrLines k bs else segLines k bs

theorem bufLines_nil (sel : Bool) (k : Nat) : bufLines sel k [] = [] := by
  cases sel <;> rfl

theorem bufLines_cons (sel : Bool) (k : Nat) (b : Byte) (bs : List Byte) :
    bufLines sel k (b :: bs) = line (bufInstr sel (BitVec.ofNat 4 k) b) :: bufLines sel (k + 1) bs := by
  cases sel <;> rfl

/-- A buffer after the writes of `bs` from index `k` on, one after another; an index has 4 bits (R51, R52). -/
def writeFrom {n : Nat} : Nat → List Byte → Vector Byte n → Vector Byte n
  | _, [], v => v
  | k, b :: bs, v => writeFrom (k + 1) bs (v.setIfInBounds (BitVec.ofNat 4 k).toNat b)

/-- As long as the indices fit their 4 bits, the bytes stand from entry `k` on, and the other entries are as before. -/
theorem getElem?_writeFrom {n j : Nat} (k : Nat) (bs : List Byte) (v : Vector Byte n) (hj : j < n)
    (hk : k + bs.length ≤ 16) :
    (writeFrom k bs v)[j]? = if k ≤ j ∧ j < k + bs.length then bs[j - k]? else v[j]? := by
  induction bs generalizing k v with
  | nil => exact (if_neg (by simp)).symm
  | cons b bs ih =>
    rw [List.length_cons] at hk ⊢
    have hidx : (BitVec.ofNat 4 k).toNat = k := by rw [BitVec.toNat_ofNat, Nat.mod_eq_of_lt (by omega)]
    rw [writeFrom, ih (k + 1) _ (by omega), hidx, getElem?_setIfInBounds_of_lt v k b hj]
    rcases Nat.lt_trichotomy j k with hlt | rfl | hgt
    · rw [if_neg (by omega), if_neg (by omega), if_neg (by omega)]
    · rw [if_neg (by omega), if_pos rfl, if_pos (by omega), Nat.sub_self]
      rfl
    · obtain ⟨d, rfl⟩ : ∃ d, j = k + 1 + d := ⟨j - (k + 1), by omega⟩
      have hd : k + 1 + d - k = d + 1 := by omega
      rw [Nat.add_sub_cancel_left, hd, List.getElem?_cons_succ, if_neg (c := _ = k) (by omega)]
      exact if_congr (by omega) rfl rfl

/-- Writing the first `m` bytes of a text fills a buffer of at most `m` entries as far as the text goes. -/
theorem getElem?_writeFrom_take {n j m : Nat} (bs : List Byte) (v : Vector Byte n) (hj : j < n) (hn : n ≤ m)
    (hm : m ≤ 16) : (writeFrom 0 (bs.take m) v)[j]? = if j < bs.length then bs[j]? else v[j]? := by
  rw [getElem?_writeFrom 0 _ v hj (by rw [List.length_take]; omega), List.length_take, Nat.sub_zero,
    List.getElem?_take_of_lt (by omega)]
  exact if_congr (by omega) rfl rfl

/-- The state with `bs` written from entry `k` on into `TXT` or `SEGBUF`. -/
def State.withBytes (s : State) (sel : Bool) (k : Nat) (bs : List Byte) : State :=
  s.withBuffers (if sel then s.segbuf else writeFrom k bs s.segbuf) (if sel then writeFrom k bs s.txt else s.txt)

/-- A run over the lines of buffer writes and one more line: that line's instruction, executed with the bytes written
and the lines taken from the queue. -/
theorem run_bufLines {sel : Bool} {i : Instr} {rest : List HostAct} (hi : WellFormed i = true) (bs : List Byte)
    (k : Nat) (s : State) (hb : s.busy = false) (hh : s.host = bufLines sel k bs ++ line i :: rest) :
    Host.Core.run core (bs.length + 1) s = exec i (takeAction rest (s.withBytes sel k bs)) := by
  induction bs generalizing k s with
  | nil =>
    rw [bufLines_nil, List.nil_append] at hh
    have hs : s.withBytes sel k [] = s := by cases sel <;> rfl
    rw [List.length_nil, run_one, step_line hi hb hh, hs]
  | cons b bs ih =>
    rw [bufLines_cons, List.cons_append] at hh
    have hstep := step_line (wellFormed_bufInstr sel _ b) hb hh
    rw [exec_bufInstr] at hstep
    rw [List.length_cons, run_succ hstep, ih (k + 1) _ (by rwa [bufWrite_busy]) (bufWrite_host ..)]
    cases sel <;> rfl

/-- Settles O58: the first sixteen bytes are written by index, and those past `SEGBUF` are dropped. -/
theorem rawScriptShowsItsBytes : Obligations.RawScriptShowsItsBytes := by
  intro bs rest s hb hh
  have hrun := run_bufLines (sel := false) (i := .writeRaw 0) (rest := rest) rfl (bs.take 16) 0 s hb
    (by rw [hh, rawScript, List.append_assoc]; rfl)
  rw [List.length_take, Nat.min_comm] at hrun
  refine ⟨writeFrom 0 (bs.take 16) s.segbuf, fun k hk => ?_, hrun⟩
  exact getElem?_writeFrom_take bs s.segbuf hk (by decide) (by decide)

/-- `WRITE_STR` between operations with `DIGITS` in range answers a next state, with the encoded text in `XBUF`
(R186). -/
theorem writeStr_loads_text (n : Byte) (s : State) (hb : s.busy = false) (hd : digitsLegal s = true) :
    ∃ t, exec (.writeStr n) s = .next t ∧ ∀ k, k < s.digits.toNat →
      t.xbuf[k]? = (textWalk segOf s.txt (min n.toNat 12) s.digits.toNat 0)[k]? := by
  refine ⟨_, command_idle opWriteStr n (textBurst n) frameResult s hb, fun k hk => ?_⟩
  have h6 : k < 6 := Nat.lt_of_lt_of_le hk ((digitsLegal_iff s).1 hd).2
  rw [finish_xbuf, textBurst, (burst_wireOnly _ _).xbuf, Vector.getElem?_eq_getElem h6, loadXbuf_entry _ _ _ h6,
    textBytes_eq_textWalk n (latch opWriteStr n s) hd]
  simp [hk]

/-- The length that `STR` writes into `ARG` is read as the length of the text, at most 12 (R72). -/
theorem textLength_arg (m : Nat) : min (BitVec.ofNat 8 (min m 255)).toNat 12 = min m 12 := by
  rw [BitVec.toNat_ofNat, Nat.mod_eq_of_lt (by omega)]
  omega

/-- Settles O59: the first twelve characters are written by index, and `WRITE_STR` encodes as many. -/
theorem strScriptShowsItsText : Obligations.StrScriptShowsItsText := by
  intro text rest s hb hh
  have hrun := run_bufLines (sel := true) (i := .writeStr (BitVec.ofNat 8 (min text.length 255))) (rest := rest) rfl
    (text.take 12) 0 s hb (by rw [hh, strScript, List.append_assoc]; rfl)
  rw [List.length_take, Nat.min_comm] at hrun
  refine ⟨writeFrom 0 (text.take 12) s.txt, fun k hk => ?_, hrun, fun hd => ?_⟩
  · exact getElem?_writeFrom_take text s.txt hk (by decide) (by decide)
  · obtain ⟨t, ht, hx⟩ := writeStr_loads_text (BitVec.ofNat 8 (min text.length 255))
      (takeAction rest (s.withBytes true 0 (text.take 12))) hb hd
    rw [textLength_arg] at hx
    exact ⟨t, hrun.trans ht, hx⟩

end Sys2Proof.Machine

namespace Sys2Proof.Machine

/-! ### What one event is on the wire (R112) -/

/-- An event that changes no line is no symbol. -/
@[simp] theorem symbolOf_same (r : Level) (l : Lines) : symbolOf r l l = none := by
  obtain ⟨c, d⟩ := l
  cases c with
  | false => rfl
  | true => cases h : d && r <;> simp [symbolOf, h]

/-- An event that leaves the clock low is no symbol. -/
@[simp] theorem symbolOf_clock_low (r : Level) (l : Lines) (d : Level) : symbolOf r l ⟨false, d⟩ = none := by
  obtain ⟨c, e⟩ := l
  cases c <;> rfl

/-- A rise of the clock alone carries the level of the data line, the receiver's drive included (R21). -/
@[simp] theorem symbolOf_rise (r d : Level) : symbolOf r ⟨false, d⟩ ⟨true, d⟩ = some (.rise (d && r)) := by
  simp [symbolOf]

/-- The block's data line is not seen while the receiver holds the line low. -/
@[simp] theorem symbolOf_held (d e : Level) : symbolOf false ⟨true, d⟩ ⟨true, e⟩ = none := by
  simp [symbolOf]

/-- A fall of a released data line under a high clock (R112). -/
@[simp] theorem symbolOf_fall : symbolOf true ⟨true, true⟩ ⟨true, false⟩ = some .start := rfl

/-- A rise of a released data line under a high clock (R112). -/
@[simp] theorem symbolOf_release : symbolOf true ⟨true, false⟩ ⟨true, true⟩ = some .stop := rfl

/-! ### A byte on the wire -/

/-- A bit cell is one rise, whatever the lines were: its `CLK1` is event 4 (R106, R111). -/
theorem wireView_bitCell (v : Level) (es : List PinEvent) (l : Lines) (r0 r1 r2 r3 r4 r5 : Level) (rs : List Level) :
    wireView l ((bitEvents v ++ es).zip (r0 :: r1 :: r2 :: r3 :: r4 :: r5 :: rs)) =
      .rise (v && r4) :: wireView ⟨true, v⟩ (es.zip rs) := by
  cases v <;> simp [bitEvents, wireView, Lines.after]

/-- Bit cells in a row are one rise each, of the bit itself when the receiver has released at the rises. -/
theorem wireView_bitCells (vs : List Level) (es : List PinEvent) (l : Lines) (rs : List Level)
    (hlen : 6 * vs.length ≤ rs.length) (hrel : ∀ j, j < vs.length → rs[6 * j + 4]? = some true) :
    ∃ m, wireView l ((vs.flatMap bitEvents ++ es).zip rs) =
      vs.map Symbol.rise ++ wireView m (es.zip (rs.drop (6 * vs.length))) := by
  induction vs generalizing l rs with
  | nil => exact ⟨l, rfl⟩
  | cons v vs ih =>
    match rs, hlen, hrel with
    | r0 :: r1 :: r2 :: r3 :: r4 :: r5 :: rs, hlen, hrel =>
      have h4 : r4 = true := by simpa using hrel 0 (by simp)
      have htail : ∀ j, j < vs.length → rs[6 * j + 4]? = some true := fun j hj => by
        simpa [Nat.mul_add] using hrel (j + 1) (by simpa using hj)
      obtain ⟨m, hm⟩ := ih ⟨true, v⟩ rs (by simp at hlen; omega) htail
      refine ⟨m, ?_⟩
      rw [List.flatMap_cons, List.append_assoc, wireView_bitCell, hm, h4, Bool.and_true]
      rfl

/-- The acknowledgment cell is one rise, of what the receiver drives at its `CLK1`, event 3, when the receiver still
holds the line at the conditional `DAT0`, event 7 (R107, R111, R114). -/
theorem wireView_ackCell (a : Level) (l : Lines) (rs : List Level) (hlen : rs.length = (ackEvents a).length)
    (hheld : a = false → rs[7]? = some false) :
    ∃ r, rs[3]? = some r ∧ wireView l ((ackEvents a).zip rs) = [.rise r] := by
  cases a with
  | true =>
    match rs, hlen with
    | [r0, r1, r2, r3, r4, r5, r6, r7, r8, r9], _ =>
      exact ⟨r3, rfl, by simp [ackEvents, wireView, Lines.after]⟩
  | false =>
    match rs, hlen, hheld rfl with
    | [r0, r1, r2, r3, r4, r5, r6, r7, r8, r9, r10], _, h7 =>
      obtain rfl : r7 = false := by simpa using h7
      exact ⟨r3, rfl, by simp [ackEvents, wireView, Lines.after]⟩

@[simp] theorem wireBits_length (b : Byte) : (wireBits b).length = 8 := by simp [wireBits]

/-- When every bit cell has `n` events of a kind, a byte has `8 * n` and those of its acknowledgment cell (R108). -/
theorem countP_byteEvents (p : PinEvent → Bool) (n : Nat) (hp : ∀ v, (bitEvents v).countP p = n) (b : Byte)
    (a : Level) : (byteEvents b a).countP p = 8 * n + (ackEvents a).countP p := by
  have hmap : (wireBits b).map (fun v => (bitEvents v).countP p) = List.replicate 8 n := by
    simp [hp]
  rw [byteEvents, List.countP_append, List.countP_flatMap]
  simp only [Function.comp_def, hmap, List.sum_replicate, smul_eq_mul]

theorem byteEvents_length (b : Byte) (a : Level) : (byteEvents b a).length = if a then 58 else 59 := by
  rw [← List.countP_true, countP_byteEvents _ 6 (by decide)]
  cases a <;> rfl

/-- Settles O55: the eight bit cells take 48 events, then comes the acknowledgment cell. -/
theorem byteOnTheWireIsNineRises : Obligations.ByteOnTheWireIsNineRises := by
  intro b a l rs _ hlen hrel _ hheld
  have hack : rs.length = 48 + (ackEvents a).length := by
    rw [hlen, byteEvents_length]; cases a <;> rfl
  obtain ⟨m, hbits⟩ := wireView_bitCells (wireBits b) (ackEvents a) l rs (by simp [hack])
    fun j hj => hrel _ (by omega) (by simp at hj; omega)
  obtain ⟨r, hr, hrise⟩ := wireView_ackCell a m (rs.drop 48) (by simp [hack])
    fun ha => by simpa using hheld ha
  refine ⟨r, by simpa using hr, ?_⟩
  rw [byteEvents, hbits, wireBits_length, hrise]

/-- Settles O54: under a high clock a change of the data line is a symbol unless the receiver holds the line. -/
theorem startAndStopOnTheWire : Obligations.StartAndStopOnTheWire := by
  refine ⟨?_, fun x r0 r1 => ?_, ?_, symbolOf_held true false, symbolOf_fall⟩
  · simp [wireView, startEvents, Lines.after]
  · simp [wireView, stopEvents, Lines.after]
  · simp [wireView, startEvents, Lines.after]

/-! ### The transport operations as instructions -/

/-- A command word decodes to the operation of its code (R70). -/
theorem decode_cmd_append (op : BitVec 4) (arg : Byte) : decode (.cmd (op ++ arg)) = .ok (opInstr op arg) :=
  congrArg Except.ok (decodeCmd_append op arg)

/-- The latch and the end of an operation write no store (R148). -/
theorem sameStores_finish_of_latch {op : BitVec 4} {arg : Byte} {s u : State} (r : Bool)
    (h : SameStores (latch op arg s) u) : SameStores s (finish r u) :=
  ⟨h.digits, h.segbuf, h.txt, h.xbuf, h.segOut, h.host⟩

/-- The end of an operation (R148). -/
theorem finish_ended (r : Bool) (s : State) : Ended (finish r s) := ⟨rfl, rfl, rfl⟩

section
variable {s : State} (hb : s.busy = false)
include hb

/-- `T_START` between operations (R104). -/
theorem exec_tStart_idle (arg : Byte) :
    exec (.tStart arg) s = .next (finish false (startCondition (latch opTStart arg s))) :=
  command_idle opTStart arg startCondition noError s hb

/-- `T_STOP` between operations (R105). -/
theorem exec_tStop_idle (arg : Byte) :
    exec (.tStop arg) s = .next (finish false (stopCondition (latch opTStop arg s))) :=
  command_idle opTStop arg stopCondition noError s hb

/-- `T_BYTE` between operations: its result is the level that comes (R108). -/
theorem exec_tByte_idle (b : Byte) :
    exec (.tByte b) s = .next (finish (comingLevel s 0) (sendByte b (latch opTByte b s))) := by
  have hres : ackResult (sendByte b (latch opTByte b s)) = comingLevel s 0 := by
    rw [sendByte_eq, ← comingLevel_latch opTByte b]; rfl
  rw [exec_tByte, command_idle _ _ _ _ _ hb, hres]

end

/-- Settles O10: the start condition's update, between the latch and the end. -/
theorem tStartEmitsTheStartCondition : Obligations.TStartEmitsTheStartCondition := by
  refine ⟨decode_cmd_append 0x1, fun arg s hb => ⟨_, exec_tStart_idle hb arg, ?_⟩, rfl⟩
  have hstores := sameStores_finish_of_latch false (startCondition_wireOnly (latch opTStart arg s)).toSameStores
  rw [startCondition_eq] at hstores ⊢
  exact ⟨rfl, rfl, rfl, rfl, rfl, finish_ended .., hstores, ⟨rfl, rfl, rfl, rfl, rfl, rfl⟩, ⟨rfl, rfl⟩⟩

/-- Settles O11: the stop condition's update, between the latch and the end. -/
theorem tStopEmitsTheStopCondition : Obligations.TStopEmitsTheStopCondition := by
  refine ⟨decode_cmd_append 0x2, fun arg s hb => ⟨_, exec_tStop_idle hb arg, ?_⟩, rfl⟩
  have hstores := sameStores_finish_of_latch false (stopCondition_wireOnly (latch opTStop arg s)).toSameStores
  rw [stopCondition_eq] at hstores ⊢
  exact ⟨rfl, rfl, rfl, rfl, rfl, finish_ended .., hstores, ⟨rfl, rfl, rfl, rfl, rfl, rfl⟩, ⟨rfl, rfl⟩⟩

/-- The events of a byte, bit by bit (R108). -/
theorem byteEvents_eq (b : Byte) (a : Level) :
    byteEvents b a =
      bitEvents (b.getLsbD 0) ++ bitEvents (b.getLsbD 1) ++ bitEvents (b.getLsbD 2) ++ bitEvents (b.getLsbD 3) ++
      bitEvents (b.getLsbD 4) ++ bitEvents (b.getLsbD 5) ++ bitEvents (b.getLsbD 6) ++ bitEvents (b.getLsbD 7) ++
      ackEvents a := by
  have hbits : wireBits b = [b.getLsbD 0, b.getLsbD 1, b.getLsbD 2, b.getLsbD 3, b.getLsbD 4, b.getLsbD 5,
      b.getLsbD 6, b.getLsbD 7] := rfl
  rw [byteEvents, hbits]
  simp only [List.flatMap_cons, List.flatMap_nil, List.append_nil, List.append_assoc]

/-- Settles O12: the byte sender's update, between the latch and the end; the counts are those of its nine cells. -/
theorem tByteSendsItsBitsAndSamplesOnce : Obligations.TByteSendsItsBitsAndSamplesOnce := by
  refine ⟨decode_cmd_append 0x3, fun b s hb => ⟨_, exec_tByte_idle hb b, ?_⟩, fun b a => ?_, rfl⟩
  · have hnext : ∀ k, comingLevel (finish (comingLevel s 0) (sendByte b (latch opTByte b s))) k =
        comingLevel s (k + 1) := fun k => by
      rw [comingLevel_finish, comingLevel_sendByte, comingLevel_latch]
    have hstores := sameStores_finish_of_latch (comingLevel s 0) (sendByte_wireOnly b (latch opTByte b s)).toSameStores
    rw [← byteEvents_eq]
    rw [sendByte_eq, comingLevel_latch] at hnext hstores ⊢
    exact ⟨rfl, rfl, rfl, rfl, rfl, rfl, dropLevel_phase _, dropLevel_err _, dropLevel_byteIdx _, dropLevel_nbytes _,
      hnext, finish_ended .., hstores⟩
  · refine ⟨byteEvents_length b a, ?_, ?_, ?_⟩
    · exact (countP_byteEvents _ 3 (by decide) b a).trans (by cases a <;> rfl)
    · exact (countP_byteEvents _ 1 (by decide) b a).trans (by cases a <;> rfl)
    · exact (countP_byteEvents _ 0 (by decide) b a).trans (by cases a <;> rfl)

/-- Settles O13: the byte leaves the clock low and the data line high, and `T_STOP` starts from there. -/
theorem failedByteThenStopEndsIdleHigh : Obligations.FailedByteThenStopEndsIdleHigh := by
  intro b arg s hb hnack
  obtain ⟨t, ht, -, hscl, hsda, -, hres, -, -, -, -, -, -, hend, -⟩ := tByteSendsItsBitsAndSamplesOnce.2.1 b s hb
  obtain ⟨u, hu, htrace, huscl, husda, -⟩ := tStopEmitsTheStopCondition.2.1 arg t hend.busy
  rw [hnack] at hsda hres
  have hlines : t.lines = ⟨false, true⟩ := by rw [State.lines, hscl, hsda]
  exact ⟨t, u, ht, hres, hscl, hsda, hu, htrace, by rw [hlines]; rfl, huscl, husda⟩

/-! ### No instruction stops -/

/-- The byte sender answers a next state, busy or not (R74). -/
theorem wireByte_answers (b : Byte) (s : State) : ∃ t, wireByte b s = .next t := by
  cases hb : s.busy with
  | false => exact ⟨_, wireByte_idle hb⟩
  | true => exact ⟨s, if_pos hb⟩

/-- Settles O9: each of the four kinds of instruction answers a next state. -/
theorem everyInstructionAnswersANextState : Obligations.EveryInstructionAnswersANextState := by
  intro i s
  rcases exec_cases i s with ⟨op, arg, body, res, h⟩ | ⟨sel, k, b, h⟩ | ⟨b, h⟩ | ⟨c, h⟩
  · rcases command_cases op arg body res s with ⟨-, hc⟩ | ⟨-, hc⟩
    · exact ⟨_, h.trans hc⟩
    · exact ⟨_, h.trans hc⟩
  · exact ⟨_, h⟩
  · obtain ⟨t, ht⟩ := wireByte_answers b s
    exact ⟨t, h.trans ht⟩
  · exact ⟨_, h⟩

/-- Settles O14: each clause is `emit`'s or `sampleAt`'s update for its event (R100, R103). -/
theorem eachEventWritesOnlyItsLines : Obligations.EachEventWritesOnlyItsLines :=
  fun _ => ⟨rfl, rfl, rfl, rfl, rfl, rfl, fun _ => rfl⟩

end Sys2Proof.Machine

namespace Sys2Proof.Machine

/-! ### Words presented while an operation runs -/

/-- While an operation runs and the host drives no clock cycle, the step is the operation's next event (R148; log 1). -/
theorem step_of_busy {s : State} (hb : s.busy = true) (hh : ∀ p rest, s.host ≠ .clk p :: rest) :
    step s = continueOperation s := by
  unfold step
  split
  case h_1 p rest h => exact absurd h (hh p rest)
  case h_2 | h_3 => exact if_pos hb

theorem continueOperation_eq_next_iff (s t : State) :
    continueOperation s = .next t ↔ tickInput (clearDone s) = some t := by
  unfold continueOperation
  cases tickInput (clearDone s) <;> simp

/-- Settles O7: the step is the next event, and an event step keeps the host's actions. -/
theorem hostWordIsHeldWhileBusy : Obligations.HostWordIsHeldWhileBusy := by
  intro s hb hh
  rw [step_of_busy hb hh]
  refine ⟨continueOperation_eq_next_iff s, fun t ht => ?_⟩
  exact tickInput_oneEvent (s := clearDone s) ((continueOperation_eq_next_iff s t).1 ht)

/-- The buffer port's part of a clock cycle does not touch `BUSY` (R51). -/
theorem afterBufferPort_busy (p : PortIn) (s : State) : (afterBufferPort p s).busy = s.busy := by
  unfold afterBufferPort
  split
  · exact bufWrite_busy ..
  · rfl

/-- A clock cycle without reset while an operation runs: the buffer port, then the operation's next event (R33). -/
theorem clockCycle_of_busy {p : PortIn} {s : State} (hr : p.rstN = true) (hb : s.busy = true) :
    clockCycle p s = (tick p.rxSda (afterBufferPort p s)).elim (.fault .illegalPosition) .next := by
  have ht := (afterBufferPort_busy p s).trans hb
  rw [clockCycle, if_neg (by simp [hr])]
  refine (if_pos ht).trans ?_
  change (match tick p.rxSda (afterBufferPort p s) with | some u => _ | none => _) = _
  cases tick p.rxSda (afterBufferPort p s) <;> rfl

/-- A clock cycle without reset that accepts a command word: the buffer port, then the acceptance (R148; log 8). -/
theorem clockCycle_of_accept {p : PortIn} {s : State} (hr : p.rstN = true) (hv : p.cmdValid = true)
    (hb : s.busy = false) : clockCycle p s = .next (accept p.cmdOp p.cmdArg (afterBufferPort p s)) := by
  have ht := (afterBufferPort_busy p s).trans hb
  rw [clockCycle, if_neg (by simp [hr])]
  change (if (afterBufferPort p s).busy then _ else _) = _
  rw [if_neg (by simp [ht]), if_pos hv]
  rfl

/-- Settles O8: the busy branch of the clock cycle reads no command port, and that of a command is the state itself. -/
theorem commandWordIsIgnoredWhileBusy : Obligations.CommandWordIsIgnoredWhileBusy := by
  refine ⟨fun p v o a s hb => ?_, fun w s hb => ?_⟩
  · by_cases hr : p.rstN = true
    · rw [clockCycle_of_busy hr hb, clockCycle_of_busy (p := { p with cmdValid := v, cmdOp := o, cmdArg := a }) hr hb]
      rfl
    · simp [clockCycle, hr]
  · obtain ⟨op, arg, rfl⟩ := exists_eq_append (m := 4) (n := 8) w
    rw [decodeCmd_append, exec_opInstr, command_busy _ _ _ _ _ hb]

/-! ### SET_DIGITS -/

/-- Settles O17: the operation writes the clamped count and, at its end, the status (R144). -/
theorem setDigitsClampsTheCount : Obligations.SetDigitsClampsTheCount := by
  refine ⟨decode_cmd_append 0x6, fun count s hb => ?_⟩
  refine ⟨_, command_idle opSetDigits count (setDigits count) noError s hb, ?_⟩
  exact ⟨clampDigits_toNat count, rfl, ⟨rfl, rfl, rfl, rfl, rfl⟩, rfl, rfl, rfl, rfl, rfl, finish_ended ..,
    ⟨rfl, rfl, rfl, rfl, rfl, rfl⟩, ⟨rfl, rfl⟩⟩

/-! ### The bytes of a frame that go out -/

/-- A frame with a byte sends at least one (R141 b). -/
theorem sentCount_pos (b : Byte) (bs : List Byte) (f : Nat → Level) : 1 ≤ sentCount (b :: bs) f := by
  rw [sentCount]
  split <;> omega

theorem sentCount_le_length (bs : List Byte) (f : Nat → Level) : sentCount bs f ≤ bs.length := by
  induction bs generalizing f with
  | nil => exact Nat.le_refl 0
  | cons b bs ih =>
    have hrest := ih fun k => f (k + 1)
    rw [sentCount, List.length_cons]
    split <;> omega

/-- Every byte before the last one sent was acknowledged (R150). -/
theorem acked_of_lt_sentCount (bs : List Byte) (f : Nat → Level) (k : Nat) (hk : k + 1 < sentCount bs f) :
    f k = false := by
  induction bs generalizing f k with
  | nil => simp [sentCount] at hk
  | cons b bs ih =>
    rw [sentCount] at hk
    split at hk
    case isTrue => omega
    case isFalse h0 =>
      cases k with
      | zero => simpa using h0
      | succ k => exact ih (fun k => f (k + 1)) k (by omega)

/-- A frame without an error sends all its bytes (R141 b). -/
theorem sentCount_of_acked (bs : List Byte) (f : Nat → Level) (h : someNack bs.length f = false) :
    sentCount bs f = bs.length := by
  induction bs generalizing f with
  | nil => rfl
  | cons b bs ih =>
    rw [List.length_cons, someNack_succ, Bool.or_eq_false_iff] at h
    obtain ⟨h0, hrest⟩ := h
    rw [sentCount, h0, ih _ hrest, List.length_cons]
    simp [Nat.add_comm]

/-- The error of a frame is the level of the last byte sent (R141 c). -/
theorem someNack_eq_last (b : Byte) (bs : List Byte) (f : Nat → Level) :
    someNack (b :: bs).length f = f (sentCount (b :: bs) f - 1) := by
  induction bs generalizing b f with
  | nil => cases h0 : f 0 <;> simp [someNack, sentCount, h0]
  | cons c bs ih =>
    have hpos := sentCount_pos c bs fun k => f (k + 1)
    have hcount : sentCount (b :: c :: bs) f = if f 0 then 1 else 1 + sentCount (c :: bs) fun k => f (k + 1) := rfl
    rw [List.length_cons, someNack_succ, ih, hcount]
    cases h0 : f 0 with
    | true => exact h0.symm
    | false =>
      simp only [Bool.false_or, Bool.false_eq_true, if_false]
      congr 1
      omega

/-- The events of a frame's bytes are the whole bytes sent, in order (R141 b). -/
theorem bytesEvents_eq_flatMap (bs : List Byte) (f : Nat → Level) :
    bytesEvents bs f = (List.range (sentCount bs f)).flatMap fun k => byteEvents (bs.getD k 0) (f k) := by
  induction bs generalizing f with
  | nil => rfl
  | cons b bs ih =>
    rw [bytesEvents, sentCount]
    cases h0 : f 0 with
    | true => simp [h0]
    | false => simp [h0, ih, Nat.add_comm 1, List.range_succ_eq_map, List.flatMap_map]

/-- When a byte has `c` events of a kind whatever its level, the bytes of a frame have `c` for each byte sent. -/
theorem countP_bytesEvents (p : PinEvent → Bool) (c : Nat) (hp : ∀ b a, (byteEvents b a).countP p = c)
    (bs : List Byte) (f : Nat → Level) : (bytesEvents bs f).countP p = c * sentCount bs f := by
  induction bs generalizing f with
  | nil => rfl
  | cons b bs ih =>
    rw [bytesEvents, sentCount, List.countP_append, hp]
    split
    · simp
    · rw [ih, Nat.mul_add, Nat.mul_one]

/-- Each byte sent has 59 events, the last one 58 when it was not acknowledged (R244). -/
theorem bytesEvents_length (bs : List Byte) (f : Nat → Level) :
    (bytesEvents bs f).length + (if someNack bs.length f then 1 else 0) = 59 * sentCount bs f := by
  induction bs generalizing f with
  | nil => rfl
  | cons b bs ih =>
    have hrest := ih fun k => f (k + 1)
    rw [bytesEvents, sentCount, List.length_append, byteEvents_length, List.length_cons, someNack_succ]
    cases f 0 with
    | true => rfl
    | false =>
      simp only [Bool.false_eq_true, if_false, Bool.false_or]
      omega

/-- A frame uses up one level per byte sent (R141 c). -/
theorem comingLevel_sendBytes (k : Nat) (bs : List Byte) (s : State) (j : Nat) :
    comingLevel (sendBytes k bs s) j = comingLevel s (j + sentCount bs (comingLevel s)) := by
  induction bs generalizing k s with
  | nil => rfl
  | cons b bs ih =>
    have hc : comingLevel (sendByte b { s with byteIdx := BitVec.ofNat 3 k }) = fun j => comingLevel s (j + 1) :=
      funext fun j => comingLevel_sendByte b _ j
    rw [sendBytes_cons, sentCount]
    cases comingLevel s 0 with
    | true => exact congrFun hc j
    | false =>
      simp only [Bool.false_eq_true, if_false, ih, hc]
      congr 1
      omega

/-! ### What an operation with a frame ends with -/

/-- What the operation that sends the frame `b :: bs` from the state `u` ends with, in the state `t` (R140, R141,
R148). -/
structure FrameEnd (b : Byte) (bs : List Byte) (u t : State) : Prop where
  trace : t.trace = u.trace ++ frameEvents (b :: bs) (comingLevel u)
  result : t.result = someNack (b :: bs).length (comingLevel u)
  ackv : t.ackv = someNack (b :: bs).length (comingLevel u)
  scl : t.scl = true
  sda : t.sda = true
  phase : t.phase = false
  rx : t.rx = (frame (b :: bs) u).rx
  levels : ∀ k, comingLevel t k = comingLevel u (k + sentCount (b :: bs) (comingLevel u))
  ended : Ended t
  stores : SameStores u t

/-- A frame and the end of its operation (R140, R148). -/
theorem finish_frame (b : Byte) (bs : List Byte) (u : State) :
    FrameEnd b bs u (finish (frameResult (frame (b :: bs) u)) (frame (b :: bs) u)) where
  trace := frame_trace (b :: bs) u
  result := frame_err (b :: bs) u
  ackv := frame_ackv b bs u
  scl := frame_scl (b :: bs) u
  sda := frame_sda (b :: bs) u
  phase := frame_phase (b :: bs) u
  rx := rfl
  levels k := by
    rw [comingLevel_finish, frame, comingLevel_stopCondition, comingLevel_sendBytes, comingLevel_frameStart]
  ended := finish_ended ..
  stores :=
    have h := (frame_wireOnly (b :: bs) u).toSameStores
    ⟨h.digits, h.segbuf, h.txt, h.xbuf, h.segOut, h.host⟩

/-- A command between operations whose body is a frame. -/
theorem command_frame {op : BitVec 4} {arg : Byte} {body : State → State} {s u : State} {b : Byte} {bs : List Byte}
    (hb : s.busy = false) (hbody : body (latch op arg s) = frame (b :: bs) u) :
    ∃ t, command op arg body frameResult s = .next t ∧ FrameEnd b bs u t := by
  refine ⟨_, command_idle op arg body frameResult s hb, ?_⟩
  rw [hbody]
  exact finish_frame b bs u

/-- A command between operations whose body is a burst with one byte per position (R145, R146, R186). -/
theorem command_burst {op : BitVec 4} {arg : Byte} {body : State → State} {s : State} {bs : List Byte}
    (hb : s.busy = false) (hd : digitsLegal s = true) (hbody : body (latch op arg s) = burst bs (latch op arg s))
    (hl : bs.length = s.digits.toNat) :
    ∃ t, command op arg body frameResult s = .next t ∧ FrameEnd addrCmd bs (loadXbuf bs (latch op arg s)) t :=
  command_frame hb (by rw [hbody, burst, burstBytes_loadXbuf bs (latch op arg s) hd hl])

/-! ### The frames of one byte: INIT and SET_BRIGHT -/

theorem frameEvents_single (b : Byte) (f : Nat → Level) :
    frameEvents [b] f = startEvents ++ byteEvents b (f 0) ++ stopEvents := by
  cases h0 : f 0 <;> simp [frameEvents, bytesEvents, h0]

theorem someNack_one (f : Nat → Level) : someNack 1 f = f 0 := by
  simp [someNack]

/-- What a command with a frame of one byte ends with: the events `lead` before the frame, the frame, the level sampled
as result, and every store as it was (R142, R143). -/
theorem command_frame_single {op : BitVec 4} {arg : Byte} {body : State → State} {s u : State} {b : Byte}
    {lead : List PinEvent} (hb : s.busy = false) (hbody : body (latch op arg s) = frame [b] u)
    (hlead : u.trace = s.trace ++ lead) (hc : comingLevel u = comingLevel s) (hu : SameStores s u) :
    ∃ t, command op arg body frameResult s = .next t ∧
      t.trace = s.trace ++ (lead ++ (startEvents ++ byteEvents b (comingLevel s 0) ++ stopEvents)) ∧
      t.result = comingLevel s 0 ∧ t.ackv = comingLevel s 0 ∧
      t.scl = true ∧ t.sda = true ∧ t.phase = false ∧ Ended t ∧ SameStores s t := by
  obtain ⟨t, ht, h⟩ := command_frame hb hbody
  have hlevel : someNack [b].length (comingLevel u) = comingLevel s 0 := by rw [hc]; exact someNack_one _
  refine ⟨t, ht, ?_, h.result.trans hlevel, h.ackv.trans hlevel, h.scl, h.sda, h.phase, h.ended, hu.trans h.stores⟩
  rw [h.trace, hlead, hc, frameEvents_single, List.append_assoc]

/-- Settles O15: `BOTH1`, then the frame of the data command (R142). -/
theorem initSendsTheDataCommand : Obligations.InitSendsTheDataCommand := by
  refine ⟨decode_cmd_append 0x4, fun arg s hb => ?_, fun a => ?_, rfl⟩
  · exact command_frame_single (op := opInit) (arg := arg) (body := initEvents) (lead := [.both1]) hb rfl rfl
      (by rw [comingLevel_raiseBoth, comingLevel_latch]) ⟨rfl, rfl, rfl, rfl, rfl, rfl⟩
  · rw [List.length_cons, List.length_append, List.length_append, byteEvents_length]
    cases a <;> rfl

/-- The byte of `SET_BRIGHT` as a number (R143). -/
theorem brightByte_toNat (level : Byte) :
    (brightByte level).toNat = if level.toNat = 0 then 0x80 else 0x88 ||| (min level.toNat 8 - 1) := by
  revert level; decide

/-- Settles O16: the frame of the clamped level's byte (R143). -/
theorem setBrightSendsTheClampedLevel : Obligations.SetBrightSendsTheClampedLevel := by
  refine ⟨decode_cmd_append 0x5, fun level s hb => ?_⟩
  obtain ⟨t, ht⟩ := command_frame_single (op := opSetBright) (arg := level) (body := frame [brightByte level])
    (lead := []) hb rfl (List.append_nil _).symm (comingLevel_latch ..) ⟨rfl, rfl, rfl, rfl, rfl, rfl⟩
  exact ⟨brightByte level, t, brightByte_toNat level, ht⟩

/-! ### The bursts: WRITE_RAW and CLEAR -/

/-- `XBUF` after a load of at most six bytes (R25). -/
theorem getElem?_loadXbuf (bs : List Byte) (s : State) (i : Nat) (hl : bs.length ≤ 6) :
    (loadXbuf bs s).xbuf[i]? = if i < bs.length then bs[i]? else s.xbuf[i]? := by
  by_cases hi : i < 6
  · rw [Vector.getElem?_eq_getElem hi, Vector.getElem?_eq_getElem hi, loadXbuf_entry bs s i hi]
    split
    case isTrue hlt => simp [hlt]
    case isFalse hge => simp [Nat.le_of_not_lt hge]
  · rw [Vector.getElem?_eq_none (by omega), Vector.getElem?_eq_none (by omega), if_neg (by omega)]

/-- A burst's load of one byte per position, read entry by entry. -/
theorem getElem?_loadXbuf_digits {bs : List Byte} {s : State} (hd : digitsLegal s = true)
    (hl : bs.length = s.digits.toNat) :
    (∀ k, s.digits.toNat ≤ k → (loadXbuf bs s).xbuf[k]? = s.xbuf[k]?) ∧
    ∀ k, k < s.digits.toNat → (loadXbuf bs s).xbuf[k]? = bs[k]? := by
  have h6 : bs.length ≤ 6 := hl ▸ ((digitsLegal_iff s).1 hd).2
  refine ⟨fun k hk => ?_, fun k hk => ?_⟩
  · rw [getElem?_loadXbuf bs s k h6, if_neg (by omega)]
  · rw [getElem?_loadXbuf bs s k h6, if_pos (by omega)]

/-- The latch and the load of a burst use no level up. -/
theorem comingLevel_loadXbuf_latch (bs : List Byte) (op : BitVec 4) (arg : Byte) (s : State) :
    comingLevel (loadXbuf bs (latch op arg s)) = comingLevel s := by
  rw [comingLevel_loadXbuf, comingLevel_latch]

/-- What a burst operation ends with: its bytes below `DIGITS` in `XBUF`, one frame of the address command and those
bytes, every other store as it was (R145, R146, R186). -/
theorem command_burst_ends {op : BitVec 4} {arg : Byte} {body : State → State} {s : State} {bs : List Byte}
    (hb : s.busy = false) (hd : digitsLegal s = true) (hbody : body (latch op arg s) = burst bs (latch op arg s))
    (hl : bs.length = s.digits.toNat) :
    ∃ t, command op arg body frameResult s = .next t ∧
      t.trace = s.trace ++ frameEvents (addrCmd :: bs) (comingLevel s) ∧
      t.result = someNack (s.digits.toNat + 1) (comingLevel s) ∧
      t.ackv = someNack (s.digits.toNat + 1) (comingLevel s) ∧
      t.scl = true ∧ t.sda = true ∧ t.phase = false ∧
      (∀ i, i < s.digits.toNat → t.xbuf[i]? = bs[i]?) ∧
      (∀ i, s.digits.toNat ≤ i → t.xbuf[i]? = s.xbuf[i]?) ∧
      Ended t ∧ t.digits = s.digits ∧ t.segbuf = s.segbuf ∧ t.txt = s.txt ∧ t.segOut = s.segOut ∧ t.host = s.host := by
  obtain ⟨t, ht, h⟩ := command_burst hb hd hbody hl
  have hc := comingLevel_loadXbuf_latch bs op arg s
  obtain ⟨hhigh, hlow⟩ := getElem?_loadXbuf_digits (s := latch op arg s) hd hl
  rw [← h.stores.xbuf] at hhigh hlow
  have hlevel : someNack (addrCmd :: bs).length (comingLevel (loadXbuf bs (latch op arg s))) =
      someNack (s.digits.toNat + 1) (comingLevel s) := by rw [hc, List.length_cons, hl]
  exact ⟨t, ht, by rw [h.trace, hc]; rfl, h.result.trans hlevel, h.ackv.trans hlevel, h.scl, h.sda, h.phase, hlow,
    hhigh, h.ended, h.stores.digits, h.stores.segbuf, h.stores.txt, h.stores.segOut, h.stores.host⟩

/-- Settles O18: the burst of `SEGBUF`'s bytes (R145). -/
theorem writeRawSendsTheSegmentBuffer : Obligations.WriteRawSendsTheSegmentBuffer := by
  refine ⟨decode_cmd_append 0x7, fun arg s hb hd => ?_⟩
  obtain ⟨t, ht, htrace, hres, hack, hscl, hsda, hphase, hlow, hrest⟩ :=
    command_burst_ends (op := opWriteRaw) (arg := arg) (body := rawBurst) (bs := rawBytes s) hb hd rfl
      (rawBytes_length s hd)
  refine ⟨t, ht, htrace, hres, hack, hscl, hsda, hphase, fun i hi => ?_, hrest⟩
  rw [hlow i hi, rawBytes, List.getElem?_take_of_lt hi, Vector.getElem?_toList]

/-- Settles O19: the burst of `DIGITS` zero bytes (R146). -/
theorem clearSendsZeroBytes : Obligations.ClearSendsZeroBytes := by
  refine ⟨decode_cmd_append 0x9, fun arg s hb hd => ?_⟩
  have hz := zeroBytes_eq_replicate s hd
  obtain ⟨t, ht, htrace, hres, hack, hscl, hsda, hphase, hlow, hrest⟩ :=
    command_burst_ends (op := opClear) (arg := arg) (body := zeroBurst) (bs := zeroBytes s) hb hd rfl
      (zeroBytes_length s hd)
  rw [hz] at htrace
  refine ⟨t, ht, htrace, hres, hack, hscl, hsda, hphase, fun i hi => ?_, hrest⟩
  rw [hlow i hi, hz, List.getElem?_replicate_of_lt hi]

/-- What a frame tells the receiver depends on the lines, the levels to come and what was known before (log 14). -/
theorem frame_rx_congr {bs : List Byte} {u v : State} (hrx : u.rx = v.rx) (hscl : u.scl = v.scl)
    (hsda : u.sda = v.sda) (hc : comingLevel u = comingLevel v) : (frame bs u).rx = (frame bs v).rx := by
  cases hn : someNack bs.length (comingLevel v) with
  | true =>
    have hforget : ∀ w, someNack bs.length (comingLevel w) = true → (frame bs w).rx = Receiver.forget.onStop :=
      fun w hw => by
        rw [frame, stopCondition_eq, sendBytes_rx_nack _ _ _ (by rwa [comingLevel_frameStart])]
    rw [hforget u (hc ▸ hn), hforget v hn]
  | false =>
    have hack : ∀ j, j < bs.length → comingLevel v j = false := fun j hj => by
      have := List.any_eq_false.1 hn j (List.mem_range.2 hj)
      simpa using this
    rw [frame_rx_acked bs u (hc ▸ hack), frame_rx_acked bs v hack, hrx, hscl, hsda]

/-- With the entries below `DIGITS` all zero, `WRITE_RAW` loads the bytes of `CLEAR`. -/
theorem rawBytes_of_zero {s : State} (hd : digitsLegal s = true)
    (hz : ∀ i, i < s.digits.toNat → s.segbuf[i]? = some 0) : rawBytes s = zeroBytes s := by
  refine List.ext_getElem? fun i => ?_
  rw [zeroBytes_eq_replicate s hd, rawBytes, List.getElem?_take, List.getElem?_replicate, Vector.getElem?_toList]
  split
  case isTrue hi => exact hz i hi
  case isFalse => rfl

/-- Settles O20: the two are the same burst, under another command word (R154). -/
theorem clearIsRawOfZeros : Obligations.ClearIsRawOfZeros := by
  intro a b s hb hd hz
  have hbytes := rawBytes_of_zero hd hz
  obtain ⟨t, ht, h⟩ := command_burst (op := opWriteRaw) (arg := a) (body := rawBurst) (bs := rawBytes s) hb hd rfl
    (rawBytes_length s hd)
  obtain ⟨u, hu, g⟩ := command_burst (op := opClear) (arg := b) (body := zeroBurst) (bs := zeroBytes s) hb hd rfl
    (zeroBytes_length s hd)
  rw [hbytes] at h
  have hc : comingLevel (loadXbuf (zeroBytes s) (latch opWriteRaw a s)) =
      comingLevel (loadXbuf (zeroBytes s) (latch opClear b s)) := comingLevel_congr _ _ rfl rfl
  refine ⟨t, u, ht, hu, ?_, ?_, ?_, ?_, ?_⟩
  · rw [h.trace, g.trace, hc]; rfl
  · rw [h.result, g.result, hc]
  · rw [h.stores.xbuf, g.stores.xbuf]; rfl
  · rw [State.lines, State.lines, h.scl, h.sda, g.scl, g.sda]
  · rw [h.rx, g.rx]; exact frame_rx_congr rfl rfl rfl hc

/-! ### Every operation with a frame -/

/-- Each of the five operations sends its frame from a state with the levels to come of the one before it, and with the
events before the frame in its trace (R141, R142). -/
theorem exec_of_frameBytes {i : Instr} {bs : List Byte} {s : State} (h : frameBytes s i = some bs)
    (hb : s.busy = false) (hd : digitsLegal s = true) :
    ∃ c cs u t, bs = c :: cs ∧ exec i s = .next t ∧ FrameEnd c cs u t ∧ u.trace = s.trace ++ leadingEvents i ∧
      comingLevel u = comingLevel s := by
  cases i with
  | init arg =>
    cases h
    obtain ⟨t, ht, hend⟩ := command_frame (op := opInit) (arg := arg) (body := initEvents) hb rfl
    exact ⟨_, _, _, t, rfl, ht, hend, rfl, by rw [comingLevel_raiseBoth, comingLevel_latch]⟩
  | setBright level =>
    cases h
    obtain ⟨t, ht, hend⟩ :=
      command_frame (op := opSetBright) (arg := level) (body := frame [brightByte level]) hb rfl
    exact ⟨_, _, _, t, rfl, ht, hend, (List.append_nil _).symm, comingLevel_latch ..⟩
  | writeRaw arg =>
    cases h
    obtain ⟨t, ht, hend⟩ :=
      command_burst (op := opWriteRaw) (arg := arg) (body := rawBurst) hb hd rfl (rawBytes_length s hd)
    exact ⟨_, _, _, t, rfl, ht, hend, (List.append_nil _).symm, comingLevel_loadXbuf_latch ..⟩
  | writeStr n =>
    cases h
    obtain ⟨t, ht, hend⟩ :=
      command_burst (op := opWriteStr) (arg := n) (body := textBurst n) hb hd rfl (textBytes_length n s hd)
    exact ⟨_, _, _, t, rfl, ht, hend, (List.append_nil _).symm, comingLevel_loadXbuf_latch ..⟩
  | clear arg =>
    cases h
    obtain ⟨t, ht, hend⟩ :=
      command_burst (op := opClear) (arg := arg) (body := zeroBurst) hb hd rfl (zeroBytes_length s hd)
    exact ⟨_, _, _, t, rfl, ht, hend, (List.append_nil _).symm, comingLevel_loadXbuf_latch ..⟩
  | _ => cases h

/-- Settles O21: `j` is the number of bytes sent (R141). -/
theorem everyFrameHasOneStartAndOneStop : Obligations.EveryFrameHasOneStartAndOneStop := by
  intro i bs s hframe hb hd
  obtain ⟨c, cs, u, t, rfl, ht, h, htrace, hc⟩ := exec_of_frameBytes hframe hb hd
  have hres : t.result = someNack (c :: cs).length (comingLevel s) := by rw [h.result, hc]
  have hlast := someNack_eq_last c cs (comingLevel s)
  have hlen := bytesEvents_length (c :: cs) (comingLevel s)
  have hpos := sentCount_pos c cs (comingLevel s)
  have hsample := countP_bytesEvents PinEvent.isSample 1
    (fun b a => (countP_byteEvents _ 0 (by decide) b a).trans (by cases a <;> rfl)) (c :: cs) (comingLevel s)
  have hboth := countP_bytesEvents (· == .both1) 0
    (fun b a => (countP_byteEvents _ 0 (by decide) b a).trans (by cases a <;> rfl)) (c :: cs) (comingLevel s)
  refine ⟨t, sentCount (c :: cs) (comingLevel s), bytesEvents (c :: cs) (comingLevel s), ht, ?_, hpos,
    sentCount_le_length _ _, bytesEvents_eq_flatMap _ _, acked_of_lt_sentCount _ _, hres.trans hlast,
    fun hr => sentCount_of_acked _ _ (hres ▸ hr), by rw [hsample, Nat.one_mul], by rw [List.count, hboth, Nat.zero_mul],
    h.scl, h.sda, h.phase, fun k => by rw [h.levels, hc], ?_⟩
  · rw [h.trace, htrace, hc, frameEvents]
    simp only [List.append_assoc]
  · rw [List.length_append, List.length_append, hres]
    change 3 + _ + 5 = _
    split at hlen
    case isTrue hn => rw [if_pos hn]; omega
    case isFalse hn => rw [if_neg hn]; omega

/-! ### Acceptance at the ports -/

/-- What an acceptance writes, `XBUF` and the serializer apart: the latched word and `BUSY` (R148). -/
theorem accept_frame (op : BitVec 4) (arg : Byte) (s : State) :
    (accept op arg s).busy = true ∧ (accept op arg s).op = op ∧ (accept op arg s).arg = arg ∧
    (accept op arg s).done = s.done ∧ (accept op arg s).result = s.result ∧ (accept op arg s).digits = s.digits ∧
    NoEvent s (accept op arg s) := by
  unfold accept
  dsimp only
  split <;> exact ⟨rfl, rfl, rfl, rfl, rfl, rfl, ⟨rfl, rfl, rfl, rfl, rfl⟩⟩

/-- An operation that is no burst loads nothing (R25). -/
theorem accept_xbuf_of_not_burst {op : BitVec 4} (arg : Byte) (s : State) (hraw : op ≠ 0x7) (hstr : op ≠ 0x8)
    (hclear : op ≠ 0x9) : (accept op arg s).xbuf = s.xbuf := by
  unfold accept
  dsimp only
  split
  case h_6 => exact absurd rfl hraw
  case h_7 => exact absurd rfl hstr
  case h_8 => exact absurd rfl hclear
  all_goals rfl

/-- What acceptance loads into `XBUF[0..d-1]`, with the digit count `d` in range (R145, R146, R186). -/
theorem accept_loads (op : BitVec 4) (arg : Byte) {s : State} (hd : digitsLegal s = true) :
    (∀ k, s.digits.toNat ≤ k → (accept op arg s).xbuf[k]? = s.xbuf[k]?) ∧
    ∀ k, k < s.digits.toNat →
      (op = 0x7 → (accept op arg s).xbuf[k]? = s.segbuf[k]?) ∧
      (op = 0x8 → (accept op arg s).xbuf[k]? = (textWalk segOf s.txt (min arg.toNat 12) s.digits.toNat 0)[k]?) ∧
      (op = 0x9 → (accept op arg s).xbuf[k]? = some 0) := by
  obtain ⟨hrawHigh, hrawLow⟩ := getElem?_loadXbuf_digits hd (rawBytes_length s hd)
  obtain ⟨hstrHigh, hstrLow⟩ := getElem?_loadXbuf_digits hd (textBytes_length arg s hd)
  obtain ⟨hclearHigh, hclearLow⟩ := getElem?_loadXbuf_digits hd (zeroBytes_length s hd)
  refine ⟨fun k hk => ?_, fun k hk => ⟨?_, ?_, ?_⟩⟩
  · by_cases hraw : op = 0x7
    · subst hraw; exact hrawHigh k hk
    by_cases hstr : op = 0x8
    · subst hstr; exact hstrHigh k hk
    by_cases hclear : op = 0x9
    · subst hclear; exact hclearHigh k hk
    rw [accept_xbuf_of_not_burst arg s hraw hstr hclear]
  · rintro rfl
    refine (hrawLow k hk).trans ?_
    rw [rawBytes, List.getElem?_take_of_lt hk, Vector.getElem?_toList]
  · rintro rfl
    refine (hstrLow k hk).trans ?_
    rw [textBytes_eq_textWalk arg s hd]
  · rintro rfl
    refine (hclearLow k hk).trans ?_
    rw [zeroBytes_eq_replicate s hd, List.getElem?_replicate_of_lt hk]

/-- The fall of `done` and the buffer port's write are independent. -/
theorem afterBufferPort_eq_clearDone (p : PortIn) (s : State) :
    afterBufferPort p s = clearDone (if p.bufWe then bufWrite p.bufSel p.bufAddr p.bufWdata s else s) := by
  unfold afterBufferPort
  cases p.bufWe <;> cases p.bufSel <;> rfl

/-- The buffer port's part of a clock cycle performs no event and writes neither `XBUF` nor the status but `done`
(R51). -/
theorem afterBufferPort_frame (p : PortIn) (s : State) :
    (afterBufferPort p s).digits = s.digits ∧ (afterBufferPort p s).xbuf = s.xbuf ∧
    (afterBufferPort p s).result = s.result ∧ (afterBufferPort p s).done = false ∧ NoEvent s (afterBufferPort p s) := by
  unfold afterBufferPort
  cases p.bufWe <;> cases p.bufSel <;> exact ⟨rfl, rfl, rfl, rfl, ⟨rfl, rfl, rfl, rfl, rfl⟩⟩

/-- No event is performed in two stretches in a row when none is in either. -/
theorem NoEvent.trans {s t u : State} (h : NoEvent s t) (g : NoEvent t u) : NoEvent s u :=
  ⟨g.scl.trans h.scl, g.sda.trans h.sda, g.phase.trans h.phase, g.trace.trans h.trace, g.rx.trans h.rx⟩

/-- Settles O43: the buffer port's part of the cycle, then the acceptance (R148; log 8, 9). -/
theorem acceptanceAtThePorts : Obligations.AcceptanceAtThePorts := by
  intro p s hr hv hb u
  obtain ⟨hdig, hx, hres, hdone, hne⟩ := afterBufferPort_frame p s
  obtain ⟨hbusy, hop, harg, hdone', hres', hdig', hne'⟩ := accept_frame p.cmdOp p.cmdArg (afterBufferPort p s)
  obtain ⟨hseg, htxt⟩ := accept_buffers p.cmdOp p.cmdArg (afterBufferPort p s)
  have hport : afterBufferPort p s = clearDone u := afterBufferPort_eq_clearDone p s
  have husegbuf : (afterBufferPort p s).segbuf = u.segbuf := by rw [hport, clearDone_segbuf]
  have hutxt : (afterBufferPort p s).txt = u.txt := by rw [hport, clearDone_txt]
  refine ⟨_, clockCycle_of_accept hr hv hb, hbusy, hdone'.trans hdone, hop, harg, hne.trans hne', hres'.trans hres,
    hdig'.trans hdig, hseg.trans husegbuf, htxt.trans hutxt, fun hraw hstr hclear => ?_, fun hd => ?_⟩
  · exact (accept_xbuf_of_not_burst _ _ hraw hstr hclear).trans hx
  · rw [← hdig, ← hx, ← husegbuf, ← hutxt]
    exact accept_loads p.cmdOp p.cmdArg (by rwa [digitsLegal, hdig])

end Sys2Proof.Machine

namespace Sys2Proof.Machine

/-! ### Runs of events -/

/-- At most `m` events lead from `s` to `t` (R148). -/
def RunsTo (m : Nat) (s t : State) : Prop := ∃ n, n ≤ m ∧ runEvents n s = some t

theorem runEvents_succ_of_busy (n : Nat) {s t : State} (hb : s.busy = true) (ht : tickInput s = some t) :
    runEvents (n + 1) s = runEvents n t := by
  rw [runEvents, if_pos hb, ht]

/-- After the end of the operation no further event comes. -/
theorem runEvents_of_not_busy (n : Nat) {s : State} (hb : s.busy = false) : runEvents n s = some s := by
  cases n with
  | zero => rfl
  | succ n => rw [runEvents, if_neg (by simp [hb])]

theorem runEvents_add (m n : Nat) {s t : State} (h : runEvents m s = some t) :
    runEvents (m + n) s = runEvents n t := by
  induction m generalizing s with
  | zero => cases h; rw [Nat.zero_add]
  | succ m ih =>
    cases hb : s.busy with
    | false =>
      rw [runEvents_of_not_busy _ hb] at h
      cases h
      rw [runEvents_of_not_busy _ hb, runEvents_of_not_busy _ hb]
    | true =>
      cases ht : tickInput s with
      | none => simp [runEvents, hb, ht] at h
      | some u =>
        rw [runEvents_succ_of_busy m hb ht] at h
        rw [Nat.succ_add, runEvents_succ_of_busy _ hb ht, ih h]

theorem RunsTo.trans {m n : Nat} {s t u : State} (h : RunsTo m s t) (g : RunsTo n t u) : RunsTo (m + n) s u := by
  obtain ⟨i, hi, hs⟩ := h
  obtain ⟨j, hj, ht⟩ := g
  exact ⟨i + j, Nat.add_le_add hi hj, (runEvents_add i j hs).trans ht⟩

theorem RunsTo.mono {m n : Nat} {s t : State} (h : RunsTo m s t) (hmn : m ≤ n) : RunsTo n s t := by
  obtain ⟨i, hi, hs⟩ := h
  exact ⟨i, hi.trans hmn, hs⟩

theorem RunsTo.refl (s : State) : RunsTo 0 s s := ⟨0, Nat.le_refl 0, rfl⟩

theorem RunsTo.step {s t : State} (hb : s.busy = true) (ht : tickInput s = some t) : RunsTo 1 s t :=
  ⟨1, Nat.le_refl 1, runEvents_succ_of_busy 0 hb ht⟩

/-! ### The next event, stage by stage -/

section
variable {s : State}

theorem tickInput_of_stage_ne_byte (hg : s.stage ≠ .byte) : tickInput s = tick true s := by
  simp [tickInput, atSample, hg]

theorem tickInput_of_start (hg : s.stage = .start) : tickInput s = tickStart s := by
  rw [tickInput_of_stage_ne_byte (by simp [hg]), tick, hg]

theorem tickInput_of_stop (hg : s.stage = .stop) : tickInput s = tickStop s := by
  rw [tickInput_of_stage_ne_byte (by simp [hg]), tick, hg]

theorem tickInput_of_idle (hg : s.stage = .idle) : tickInput s = tickSilent s := by
  rw [tickInput_of_stage_ne_byte (by simp [hg]), tick, hg]

theorem tickInput_of_bit (hg : s.stage = .byte) (h8 : s.bitIdx < 8) : tickInput s = tickBit s := by
  have hne : s.bitIdx ≠ 8 := by bv_omega
  rw [tickInput, if_neg (by simp only [atSample, hne, decide_false, Bool.and_false, Bool.false_and]; decide), tick, hg]
  exact (if_neg hne).trans (if_pos h8)

theorem tickInput_of_ack (hg : s.stage = .byte) (h8 : s.bitIdx = 8) (h6 : s.stepIdx ≠ 6) :
    tickInput s = tickAck true s := by
  rw [tickInput, if_neg (by rw [atSample, decide_eq_false h6, Bool.and_false]; decide), tick, hg]
  exact if_pos h8

/-- The SAMPLE of a run reads the next level and uses it up; event 7 is skipped when the level is 1 (R103, R111). -/
theorem tickInput_of_sample (hb : s.busy = true) (hg : s.stage = .byte) (h8 : s.bitIdx = 8) (h6 : s.stepIdx = 6) :
    tickInput s = some (dropLevel (if (sampleAt (comingLevel s 0) s).ackv
      then advance (advance (sampleAt (comingLevel s 0) s)) else advance (sampleAt (comingLevel s 0) s))) := by
  have ht : tick (comingLevel s 0) s = tickAck (comingLevel s 0) s := by
    rw [tick, hg]; exact if_pos h8
  rw [tickInput, if_pos (by simp [atSample, hb, hg, h8, h6]), ht, tickAck, h6]
  rfl

end

/-! ### The cells, event by event -/

/-- The same state at event `k` of stage `g` (R29). -/
def State.at (s : State) (g : Stage) (k : BitVec 4) : State := { s with stage := g, stepIdx := k }

theorem emit_at (e : PinEvent) (s : State) (g : Stage) (k : BitVec 4) : emit e (s.at g k) = (emit e s).at g k := by
  cases e <;> rfl

theorem dropLevel_at (s : State) (g : Stage) (k : BitVec 4) : dropLevel (s.at g k) = (dropLevel s).at g k := by
  unfold dropLevel State.at
  dsimp only
  cases s.rxIn <;> rfl

theorem tickInput_at_bit {s : State} (k : BitVec 4) (h8 : s.bitIdx < 8) :
    tickInput (s.at .byte k) = tickBit (s.at .byte k) :=
  tickInput_of_bit (s := s.at .byte k) rfl h8

theorem tickInput_at_ack {s : State} {k : BitVec 4} (h8 : s.bitIdx = 8) (h6 : k ≠ 6) :
    tickInput (s.at .byte k) = tickAck true (s.at .byte k) :=
  tickInput_of_ack (s := s.at .byte k) rfl h8 h6

theorem tickInput_at_sample {s : State} (hb : s.busy = true) (h8 : s.bitIdx = 8) :
    tickInput (s.at .byte 6) =
      some ((dropLevel (sampleAt (comingLevel s 0) s)).at .byte
        (if (sampleAt (comingLevel s 0) s).ackv then 8 else 7)) := by
  rw [tickInput_of_sample (s := s.at .byte 6) hb rfl h8 rfl, ← dropLevel_at]
  change some (dropLevel (if (sampleAt (comingLevel s 0) s).ackv then _ else _)) = _
  cases (sampleAt (comingLevel s 0) s).ackv <;> rfl

/-- What decides an event within a cell is the same in both states (R111). -/
structure SameCell (s t : State) : Prop where
  busy : t.busy = s.busy
  bitIdx : t.bitIdx = s.bitIdx
  shift : t.shift = s.shift
  ackv : t.ackv = s.ackv

theorem SameCell.of_emit {e : PinEvent} {s t : State} (h : SameCell (emit e s) t) : SameCell s t :=
  ⟨h.busy.trans (emit_busy e s), h.bitIdx.trans (emit_bitIdx e s), h.shift.trans (emit_shift e s),
    h.ackv.trans (emit_ackv e s)⟩

/-- Events that only move `STEP` on come one per step, as `emits` performs them. -/
theorem runsTo_emits {g : Stage} (es : List PinEvent) (k : Nat) (s : State) (hb : s.busy = true)
    (h : ∀ i (hi : i < es.length) (v : State), SameCell s v →
      tickInput (v.at g (BitVec.ofNat 4 (k + i))) = some (advance (emit es[i] (v.at g (BitVec.ofNat 4 (k + i)))))) :
    RunsTo es.length (s.at g (BitVec.ofNat 4 k)) ((emits es s).at g (BitVec.ofNat 4 (k + es.length))) := by
  induction es generalizing k s with
  | nil => exact .refl _
  | cons e es ih =>
    have hfirst := h 0 (by simp) s ⟨rfl, rfl, rfl, rfl⟩
    have hnext : advance (emit e (s.at g (BitVec.ofNat 4 k))) = (emit e s).at g (BitVec.ofNat 4 (k + 1)) := by
      rw [emit_at, BitVec.ofNat_add]; rfl
    rw [Nat.add_zero, List.getElem_cons_zero, hnext] at hfirst
    have hrest := ih (k + 1) (emit e s) (by rwa [emit_busy]) fun i hi v hv => by
      have hi' := h (i + 1) (by simpa using hi) v hv.of_emit
      have hk : k + 1 + i = k + (i + 1) := by omega
      rw [hk]
      exact hi'
    rw [emits_cons, List.length_cons, Nat.add_comm es.length, ← Nat.add_assoc]
    exact (RunsTo.step (s := s.at g _) hb hfirst).trans hrest

/-- A bit cell, event by event (R106, R111). -/
theorem runsTo_bitCell {s : State} (hb : s.busy = true) (h8 : s.bitIdx < 8) :
    RunsTo 6 (enter .byte s) (enter .byte (bitCell s)) := by
  have hfive := runsTo_emits (g := .byte) [.clk0, .delay, datEvent (s.shift.getLsbD 0), .delay, .clk1] 0 s hb
    fun i hi v hv => by
      rw [tickInput_at_bit _ (by rwa [hv.bitIdx])]
      match i, hi with
      | 0, _ | 1, _ | 3, _ | 4, _ => rfl
      | 2, _ => rw [← hv.shift]; rfl
  refine hfive.trans (.step (by rw [← hb]; exact emits_busy ..) ?_)
  rw [tickInput_at_bit _ (by rwa [emits_bitIdx])]
  show some (enter .byte (shiftBit (emit .delay (State.at _ _ _)))) = _
  rw [emit_at]
  rfl

/-- Bit cells in a row, event by event (R108). -/
theorem runsTo_bitCells (n : Nat) {s : State} (hb : s.busy = true) (h8 : s.bitIdx.toNat + n ≤ 8) :
    RunsTo (6 * n) (enter .byte s) (enter .byte (bitCells n s)) := by
  induction n generalizing s with
  | zero => exact .refl _
  | succ n ih =>
    have hidx : (bitCell s).bitIdx = s.bitIdx + 1 := by rw [bitCell_eq]
    have hfirst := runsTo_bitCell hb (by bv_omega)
    have hrest := ih (s := bitCell s) (by rw [bitCell_eq]; exact hb) (by rw [hidx]; bv_omega)
    rw [Nat.mul_add, Nat.add_comm]
    exact hfirst.trans hrest

/-- The SAMPLE of an acknowledgment cell and, when the level is 0, the `DAT0` that follows (R107). -/
def ackAnswer (s : State) : State :=
  let t := dropLevel (sampleAt (comingLevel s 0) s)
  if t.ackv then t else emit .dat0 t

/-- An acknowledgment cell is six events, the SAMPLE with its answer, and three events (R107). -/
theorem ackCell_eq_ackAnswer (s : State) :
    ackCell s = emits [.delay, .clk0, .delay] (ackAnswer (emits [.clk0, .dat1, .delay, .clk1, .delay, .delay] s)) :=
  rfl

@[simp] theorem ackAnswer_busy (s : State) : (ackAnswer s).busy = s.busy := by
  simp [ackAnswer, apply_ite State.busy]

@[simp] theorem ackAnswer_bitIdx (s : State) : (ackAnswer s).bitIdx = s.bitIdx := by
  simp [ackAnswer, apply_ite State.bitIdx]

/-- The SAMPLE and its answer, event by event: one event when the level is 1, else two (R111). -/
theorem runsTo_ackAnswer {s : State} (hb : s.busy = true) (h8 : s.bitIdx = 8) :
    RunsTo 2 (s.at .byte 6) ((ackAnswer s).at .byte 8) := by
  have hsample := RunsTo.step (s := s.at .byte 6) hb (tickInput_at_sample hb h8)
  unfold ackAnswer
  dsimp only
  rw [dropLevel_ackv]
  cases ha : (sampleAt (comingLevel s 0) s).ackv with
  | true =>
    rw [ha] at hsample
    exact hsample.mono (by decide)
  | false =>
    rw [ha] at hsample
    refine hsample.trans (.step ((dropLevel_busy _).trans hb) ?_)
    rw [if_neg (by decide), tickInput_at_ack (by rw [dropLevel_bitIdx]; exact h8) (by decide)]
    refine (if_neg (ne_true_of_eq_false ((dropLevel_ackv _).trans ha))).trans ?_
    rw [emit_at]
    rfl

/-- The acknowledgment cell, event by event, with what follows the byte (R107, R111, R150). -/
theorem runsTo_ackCell {s t : State} (hb : s.busy = true) (h8 : s.bitIdx = 8)
    (ht : byteDone ((ackCell s).at .byte 10) = some t) : RunsTo 11 (enter .byte s) t := by
  have hsix := runsTo_emits (g := .byte) [.clk0, .dat1, .delay, .clk1, .delay, .delay] 0 s hb fun i hi v hv => by
    have hv8 := hv.bitIdx.trans h8
    match i, hi with
    | 0, _ | 1, _ | 2, _ | 3, _ | 4, _ | 5, _ => rw [tickInput_at_ack hv8 (by decide)]; rfl
  have hub := (emits_busy [.clk0, .dat1, .delay, .clk1, .delay, .delay] s).trans hb
  have hu8 := (emits_bitIdx [.clk0, .dat1, .delay, .clk1, .delay, .delay] s).trans h8
  rw [ackCell_eq_ackAnswer] at ht
  generalize emits [.clk0, .dat1, .delay, .clk1, .delay, .delay] s = u at hsix hub hu8 ht
  have htwo := runsTo_emits (g := .byte) [.delay, .clk0] 8 (ackAnswer u) (by rwa [ackAnswer_busy]) fun i hi v hv => by
    have hv8 := hv.bitIdx.trans ((ackAnswer_bitIdx u).trans hu8)
    match i, hi with
    | 0, _ | 1, _ => rw [tickInput_at_ack hv8 (by decide)]; rfl
  have hlast : tickInput ((emits [.delay, .clk0] (ackAnswer u)).at .byte 10) = some t := by
    rw [tickInput_at_ack (by rw [emits_bitIdx, ackAnswer_bitIdx, hu8]) (by decide), ← ht, emits_cons, emits_cons]
    show byteDone (emit .delay (State.at _ _ _)) = _
    rw [emit_at]
    rfl
  exact ((hsix.trans (runsTo_ackAnswer hub hu8)).trans htwo).trans
    (.step ((emits_busy ..).trans ((ackAnswer_busy u).trans hub)) hlast)

/-! ### A byte, event by event -/

/-- What follows a byte (R150): the end of `T_BYTE`, the stop condition after a failure or after the last byte, else the
next byte. -/
def afterByte (s : State) : Option State :=
  if s.op = opTByte then some (finish (ackResult s) s)
  else if s.ackv then some (enter .stop (ackFailure s))
  else if s.byteIdx + 1 = s.nbytes then some (enter .stop s)
  else startFrameByte (s.byteIdx.toNat + 1) s

/-- The end of a byte tells the receiver the byte and goes on (R150). -/
theorem byteDone_of_currentByte {s : State} {b : Byte} (h : currentByte s = some b) :
    byteDone s = afterByte { s with rx := s.rx.onByte b s.ackv } := by
  rw [byteDone, h]; rfl

/-- What follows a byte does not depend on the place within the cell. -/
theorem afterByte_at (s : State) (g : Stage) (k : BitVec 4) : afterByte (s.at g k) = afterByte s := by
  have hnext : ∀ j, startFrameByte j (s.at g k) = startFrameByte j s := fun j => by
    have hbyte : frameByte (s.at g k) j = frameByte s j := by cases j <;> rfl
    unfold startFrameByte
    rw [hbyte]
    cases frameByte s j <;> rfl
  unfold afterByte
  exact if_congr Iff.rfl rfl (if_congr Iff.rfl rfl (if_congr Iff.rfl rfl (hnext _)))

/-- The bytes of a frame are the same in two states with the same word and `XBUF` (R29). -/
theorem frameByte_congr {s t : State} (ho : t.op = s.op) (ha : t.arg = s.arg) (hx : t.xbuf = s.xbuf) (k : Nat) :
    frameByte t k = frameByte s k := by
  cases k <;> simp only [frameByte, ho, ha, hx]

theorem currentByte_congr {s t : State} (ho : t.op = s.op) (ha : t.arg = s.arg) (hx : t.xbuf = s.xbuf)
    (hi : t.byteIdx = s.byteIdx) : currentByte t = currentByte s := by
  simp only [currentByte, ho, ha, hi, frameByte_congr ho ha hx]

theorem sendByte_byteIdx (b : Byte) (s : State) : (sendByte b s).byteIdx = s.byteIdx := by
  rw [sendByte_eq]; exact dropLevel_byteIdx s

theorem sendByte_nbytes (b : Byte) (s : State) : (sendByte b s).nbytes = s.nbytes := by
  rw [sendByte_eq]; exact dropLevel_nbytes s

/-- A byte, event by event, with what follows it: 59 events, 58 when it is not acknowledged (R108, R111). -/
theorem runsTo_sendByte {s t : State} {b : Byte} (hb : s.busy = true) (hc : currentByte s = some b)
    (ht : afterByte (sendByte b s) = some t) : RunsTo 59 (enter .byte (loadByte b s)) t := by
  have hbits := runsTo_bitCells 8 (s := loadByte b s) hb (Nat.le_refl 8)
  have hcells : (bitCells 8 (loadByte b s)).bitIdx = 8 ∧ (bitCells 8 (loadByte b s)).busy = s.busy := by
    simp [bitCells, bitCell_eq]
  obtain ⟨h8, hbusy⟩ := hcells
  have hw := sendByte_wireOnly b s
  have hcur : currentByte ((ackCell (bitCells 8 (loadByte b s))).at .byte 10) = some b :=
    (currentByte_congr (s := s) hw.op hw.arg hw.xbuf (sendByte_byteIdx b s)).trans hc
  refine hbits.trans (runsTo_ackCell (hbusy.trans hb) h8 ?_)
  rw [byteDone_of_currentByte hcur, ← ht, ← afterByte_at (sendByte b s) .byte 10]
  rfl

/-! ### A frame, event by event -/

/-- The running operation of `s` is the frame of the bytes `bs` (R140, R29). -/
structure Sends (bs : List Byte) (s : State) : Prop where
  busy : s.busy = true
  bytes : ∀ k, k < bs.length → frameByte s k = bs[k]?
  nbytes : s.nbytes = BitVec.ofNat 3 bs.length
  length : bs.length ≤ 7

/-- The wire part of the state does not matter for which frame is sent. -/
theorem Sends.of_wireOnly {bs : List Byte} {s t : State} (h : Sends bs s) (hw : WireOnly s t)
    (hn : t.nbytes = s.nbytes) : Sends bs t :=
  ⟨hw.busy.trans h.busy, fun k hk => (frameByte_congr hw.op hw.arg hw.xbuf k).trans (h.bytes k hk),
    hn.trans h.nbytes, h.length⟩

/-- Sending a byte does not change which frame is sent. -/
theorem Sends.sendByte {bs : List Byte} {s : State} (h : Sends bs s) (b : Byte) (i : BitVec 3) :
    Sends bs (sendByte b { s with byteIdx := i }) :=
  have hi : Sends bs { s with byteIdx := i } :=
    h.of_wireOnly ⟨⟨rfl, rfl, rfl, rfl, rfl, rfl⟩, rfl, rfl, rfl, rfl, rfl, rfl, rfl⟩ rfl
  hi.of_wireOnly (sendByte_wireOnly b _) (sendByte_nbytes b _)

/-- An operation with a frame has a wire command byte, so it is none of the transport operations (R74). -/
theorem op_of_commandByte {op : BitVec 4} {arg : Byte} (h : (commandByte op arg).isSome = true) :
    op ≠ opTStart ∧ op ≠ opTStop ∧ op ≠ opTByte := by
  refine ⟨?_, ?_, ?_⟩ <;> rintro rfl <;> cases h

theorem Sends.commandByte {bs : List Byte} {s : State} (h : Sends bs s) (hne : 0 < bs.length) :
    (commandByte s.op s.arg).isSome = true := by
  have h0 : frameByte s 0 = bs[0]? := h.bytes 0 hne
  rw [List.getElem?_eq_getElem hne] at h0
  exact Option.isSome_iff_exists.2 ⟨_, h0⟩

theorem startFrameByte_of_frameByte {s : State} {k : Nat} {b : Byte} (h : frameByte s k = some b) :
    startFrameByte k s = some (enter .byte (loadByte b { s with byteIdx := BitVec.ofNat 3 k })) := by
  rw [startFrameByte, h]

/-- The start condition, event by event, up to its last event (R104, R111). -/
theorem runsTo_startEvents {s : State} (hb : s.busy = true) :
    RunsTo 2 (enter .start s) ((emit .delay (raiseBoth s)).at .start 2) := by
  have hfirst : tickInput (enter .start s) = some ((raiseBoth s).at .start 1) := tickInput_of_start rfl
  have hsecond : tickInput ((raiseBoth s).at .start 1) = some ((emit .delay (raiseBoth s)).at .start 2) :=
    tickInput_of_start rfl
  exact (RunsTo.step (s := enter .start s) hb hfirst).trans (.step (s := (raiseBoth s).at .start 1) hb hsecond)

/-- The start condition of a frame, event by event, up to the first byte (R104, R111). -/
theorem runsTo_startCondition_frame {b : Byte} {bs : List Byte} {s : State} (h : Sends (b :: bs) s) :
    RunsTo 3 (enter .start s) (enter .byte (loadByte b { startCondition s with byteIdx := 0 })) := by
  refine (runsTo_startEvents h.busy).trans (.step h.busy ?_)
  obtain ⟨hne, -, -⟩ := op_of_commandByte (h.commandByte (Nat.succ_pos _))
  have hbyte : frameByte (endStart ((emit .delay (raiseBoth s)).at .start 2)) 0 = some b :=
    h.bytes 0 (Nat.succ_pos _)
  rw [tickInput_of_start rfl]
  exact (if_neg hne).trans (startFrameByte_of_frameByte hbyte)

/-- The stop condition, event by event, up to its last event (R105, R111). -/
theorem runsTo_stopEvents {s : State} (hb : s.busy = true) :
    RunsTo 4 (enter .stop s) ((emits [.dat0, .delay, .clk1, .delay] s).at .stop 4) :=
  runsTo_emits (g := .stop) [.dat0, .delay, .clk1, .delay] 0 s hb fun i hi v _ => by
    rw [tickInput_of_stop (s := v.at .stop _) rfl]
    match i, hi with
    | 0, _ | 1, _ | 2, _ | 3, _ => rfl

/-- The stop condition of a frame, event by event, with the end of the operation (R105, R140). -/
theorem runsTo_stopCondition_frame {s : State} (hb : s.busy = true) (hc : (commandByte s.op s.arg).isSome = true) :
    RunsTo 5 (enter .stop s) (finish (frameResult (stopCondition s)) (stopCondition s)) := by
  refine (runsTo_stopEvents hb).trans (.step hb ?_)
  obtain ⟨-, hne, -⟩ := op_of_commandByte hc
  rw [tickInput_of_stop rfl]
  exact (if_neg hne).trans (if_pos hc)

/-- In a frame of at most seven bytes `BYTE_IDX` holds every index (R29). -/
theorem Sends.byteIdx_toNat {pre bs : List Byte} {b : Byte} {s : State} (h : Sends (pre ++ b :: bs) s) :
    (BitVec.ofNat 3 pre.length).toNat = pre.length := by
  have hlen := h.length
  rw [List.length_append, List.length_cons] at hlen
  rw [BitVec.toNat_ofNat, Nat.mod_eq_of_lt (by omega)]

theorem Sends.frameByte_eq {pre bs : List Byte} {b : Byte} {s : State} (h : Sends (pre ++ b :: bs) s) :
    frameByte s pre.length = some b := by
  rw [h.bytes _ (by simp), List.getElem?_append_right (Nat.le_refl _), Nat.sub_self]; rfl

theorem Sends.op_ne_tByte {pre bs : List Byte} {b : Byte} {s : State} (h : Sends (pre ++ b :: bs) s) :
    s.op ≠ opTByte :=
  (op_of_commandByte (h.commandByte (by simp))).2.2

/-- Byte `pre.length` of a frame is sent, event by event, with what follows it; the frame stays (R140, R150). -/
theorem runsTo_sendByte_frame {pre bs : List Byte} {b : Byte} {s : State} (h : Sends (pre ++ b :: bs) s) :
    let t := sendByte b { s with byteIdx := BitVec.ofNat 3 pre.length }
    Sends (pre ++ b :: bs) t ∧ t.byteIdx = BitVec.ofNat 3 pre.length ∧
    ∀ u, afterByte t = some u →
      RunsTo 59 (enter .byte (loadByte b { s with byteIdx := BitVec.ofNat 3 pre.length })) u := by
  refine ⟨h.sendByte b _, sendByte_byteIdx b _, fun u hu => ?_⟩
  refine runsTo_sendByte (s := { s with byteIdx := BitVec.ofNat 3 pre.length }) h.busy ?_ hu
  refine (if_neg h.op_ne_tByte).trans ?_
  rw [h.byteIdx_toNat]
  exact (frameByte_congr rfl rfl rfl _).trans h.frameByte_eq

/-- A byte of a frame that is not acknowledged is followed by the stop condition (R140). -/
theorem afterByte_nack {s : State} (hop : s.op ≠ opTByte) (ha : s.ackv = true) :
    afterByte s = some (enter .stop (ackFailure s)) :=
  (if_neg hop).trans (if_pos ha)

/-- The last byte of a frame is followed by the stop condition (R140). -/
theorem afterByte_last {pre : List Byte} {b : Byte} {s : State} (h : Sends (pre ++ [b]) s)
    (hi : s.byteIdx = BitVec.ofNat 3 pre.length) (ha : s.ackv = false) : afterByte s = some (enter .stop s) := by
  have hlast : s.byteIdx + 1 = s.nbytes := by
    rw [hi, h.nbytes, List.length_append]
    exact (BitVec.ofNat_add ..).symm
  exact (if_neg h.op_ne_tByte).trans ((if_neg (by simp [ha])).trans (if_pos hlast))

/-- Any other byte of a frame, acknowledged, is followed by the next byte (R140). -/
theorem afterByte_next {pre bs : List Byte} {b c : Byte} {s : State} (h : Sends (pre ++ b :: c :: bs) s)
    (hi : s.byteIdx = BitVec.ofNat 3 pre.length) (ha : s.ackv = false) :
    afterByte s = some (enter .byte (loadByte c { s with byteIdx := BitVec.ofNat 3 (pre.length + 1) })) := by
  have hlen := h.length
  rw [List.length_append, List.length_cons, List.length_cons] at hlen
  have hmore : s.byteIdx + 1 ≠ s.nbytes := by
    rw [hi, h.nbytes, List.length_append, List.length_cons, List.length_cons]
    refine mt (congrArg BitVec.toNat) ?_
    rw [BitVec.toNat_add, h.byteIdx_toNat, BitVec.toNat_ofNat]
    change (pre.length + 1) % 8 ≠ (pre.length + (bs.length + 1 + 1)) % 8
    omega
  have hbyte : frameByte s (pre ++ [b]).length = some c := Sends.frameByte_eq (bs := bs) (by rwa [List.append_assoc])
  rw [List.length_append] at hbyte
  refine (if_neg h.op_ne_tByte).trans ((if_neg (by simp [ha])).trans ((if_neg hmore).trans ?_))
  rw [hi, h.byteIdx_toNat]
  exact startFrameByte_of_frameByte hbyte

/-- The bytes of a frame from index `pre.length` on, event by event, up to the stop condition (R140, R150). -/
theorem runsTo_sendBytes (bs pre : List Byte) (b : Byte) {s : State} (h : Sends (pre ++ b :: bs) s) :
    RunsTo (59 * (b :: bs).length)
      (enter .byte (loadByte b { s with byteIdx := BitVec.ofNat 3 pre.length }))
      (enter .stop (sendBytes pre.length (b :: bs) s)) := by
  induction bs generalizing pre b s with
  | nil =>
    obtain ⟨hs, hi, hrun⟩ := runsTo_sendByte_frame h
    rw [sendBytes]
    generalize sendByte b { s with byteIdx := BitVec.ofNat 3 pre.length } = t at hs hi hrun
    cases ha : t.ackv with
    | true => exact hrun _ (afterByte_nack hs.op_ne_tByte ha)
    | false => exact hrun _ (afterByte_last hs hi ha)
  | cons c bs ih =>
    obtain ⟨hs, hi, hrun⟩ := runsTo_sendByte_frame h
    rw [sendBytes, List.length_cons, Nat.mul_add, Nat.add_comm]
    generalize sendByte b { s with byteIdx := BitVec.ofNat 3 pre.length } = t at hs hi hrun
    cases ha : t.ackv with
    | true => exact (hrun _ (afterByte_nack hs.op_ne_tByte ha)).mono (Nat.le_add_right ..)
    | false =>
      have hrest := ih (pre ++ [b]) c (s := t) (by rwa [List.append_assoc])
      rw [List.length_append] at hrest
      exact (hrun _ (afterByte_next hs hi ha)).trans hrest

/-- A frame, event by event (R140): at most 59 events for each byte and 8 for the two conditions. -/
theorem runsTo_frame {b : Byte} {bs : List Byte} {s : State} (h : Sends (b :: bs) (beginFrame (b :: bs).length s)) :
    RunsTo (8 + 59 * (b :: bs).length) (enter .start (beginFrame (b :: bs).length s))
      (finish (frameResult (frame (b :: bs) s)) (frame (b :: bs) s)) := by
  have hstart := runsTo_startCondition_frame h
  have hs : Sends (b :: bs) (startCondition (beginFrame (b :: bs).length s)) :=
    h.of_wireOnly (startCondition_wireOnly _) (by rw [startCondition_eq])
  have hbytes := runsTo_sendBytes bs [] b hs
  have hw := sendBytes_wireOnly 0 (b :: bs) (startCondition (beginFrame (b :: bs).length s))
  have hstop := runsTo_stopCondition_frame (hw.busy.trans hs.busy)
    (by rw [hw.op, hw.arg]; exact hs.commandByte (Nat.succ_pos _))
  exact ((hstart.trans hbytes).trans hstop).mono (by omega)

/-! ### An operation is its event-by-event run -/

/-- A burst from `XBUF` is a frame of the operation whose wire command byte is the address command (R80). -/
theorem sends_burstBytes {s : State} (hb : s.busy = true) (hc : commandByte s.op s.arg = some addrCmd) :
    Sends (burstBytes s) (beginFrame (burstBytes s).length s) where
  busy := hb
  bytes k hk := by
    cases k with
    | zero => exact hc
    | succ k =>
      have hk' : k < s.digits.toNat := by
        rw [burstBytes_length] at hk; omega
      rw [burstBytes, List.getElem?_cons_succ, List.getElem?_take_of_lt hk', Vector.getElem?_toList]
      exact if_pos (by show (commandByte s.op s.arg).isSome = true; rw [hc]; rfl)
  nbytes := rfl
  length := by rw [burstBytes_length]; omega

theorem runsTo_burst {s : State} (hb : s.busy = true) (hc : commandByte s.op s.arg = some addrCmd) :
    RunsTo 421 (enter .start (beginFrame (burstBytes s).length s))
      (finish (frameResult (frame (burstBytes s) s)) (frame (burstBytes s) s)) := by
  have h := sends_burstBytes hb hc
  have hlen := h.length
  exact (runsTo_frame h).mono (by simp only [burstBytes] at hlen ⊢; omega)

/-- A frame of one byte is a frame of the operation with that wire command byte (R80). -/
theorem sends_single {s : State} {b : Byte} (hb : s.busy = true) (hc : commandByte s.op s.arg = some b) :
    Sends [b] (beginFrame 1 s) where
  busy := hb
  bytes k hk := by
    obtain rfl : k = 0 := by simpa using hk
    exact hc
  nbytes := rfl
  length := by simp

/-- An operation without events ends in the step after its acceptance (R73; log 9). -/
theorem runsTo_silent {s t : State} (hb : s.busy = true) (ht : tickSilent (enter .idle s) = some t) :
    RunsTo 421 (enter .idle s) t :=
  (RunsTo.step (s := enter .idle s) hb ((tickInput_of_idle rfl).trans ht)).mono (by decide)

theorem runsTo_tStart (arg : Byte) (s : State) :
    RunsTo 421 (accept opTStart arg s) (finish false (startCondition (latch opTStart arg s))) := by
  refine ((runsTo_startEvents (s := latch opTStart arg s) rfl).trans (.step rfl ?_)).mono (by decide)
  exact tickInput_of_start rfl

theorem runsTo_tStop (arg : Byte) (s : State) :
    RunsTo 421 (accept opTStop arg s) (finish false (stopCondition (latch opTStop arg s))) := by
  refine ((runsTo_stopEvents (s := latch opTStop arg s) rfl).trans (.step rfl ?_)).mono (by decide)
  exact tickInput_of_stop rfl

theorem runsTo_tByte (b : Byte) (s : State) :
    RunsTo 421 (accept opTByte b s)
      (finish (ackResult (sendByte b (latch opTByte b s))) (sendByte b (latch opTByte b s))) := by
  have hop : (sendByte b (latch opTByte b s)).op = opTByte := (sendByte_wireOnly b _).op
  exact (runsTo_sendByte (s := latch opTByte b s) rfl (if_pos rfl) (if_pos hop)).mono (by decide)

theorem runsTo_init (arg : Byte) (s : State) :
    RunsTo 421 (accept opInit arg s)
      (finish (frameResult (initEvents (latch opInit arg s))) (initEvents (latch opInit arg s))) := by
  have hraise : tickInput (accept opInit arg s) =
      some (enter .start (beginFrame 1 (raiseBoth (latch opInit arg s)))) := tickInput_of_stage_ne_byte nofun
  have hframe := runsTo_frame (sends_single (s := raiseBoth (latch opInit arg s)) (b := dataCmd) rfl rfl)
  exact ((RunsTo.step rfl hraise).trans hframe).mono (by decide)

theorem runsTo_setBright (level : Byte) (s : State) :
    RunsTo 421 (accept opSetBright level s)
      (finish (frameResult (frame [brightByte level] (latch opSetBright level s)))
        (frame [brightByte level] (latch opSetBright level s))) :=
  (runsTo_frame (sends_single (s := latch opSetBright level s) (b := brightByte level) rfl rfl)).mono (by simp)

/-- The events of an accepted operation, one per step, lead to the state of the operation as a whole (R11, R148). -/
theorem runsTo_accept (op : BitVec 4) (arg : Byte) (s : State) :
    RunsTo 421 (accept op arg s)
      (finish (opResult op (opBody op arg (latch op arg s))) (opBody op arg (latch op arg s))) := by
  have h := op_mem_codes op
  simp only [List.mem_cons, List.not_mem_nil, or_false] at h
  rcases h with rfl | rfl | rfl | rfl | rfl | rfl | rfl | rfl | rfl | rfl | rfl | rfl | rfl | rfl | rfl | rfl
  · exact runsTo_silent (s := latch 0x0 arg s) rfl rfl
  · exact runsTo_tStart arg s
  · exact runsTo_tStop arg s
  · exact runsTo_tByte arg s
  · exact runsTo_init arg s
  · exact runsTo_setBright arg s
  · exact runsTo_silent (s := latch 0x6 arg s) rfl rfl
  · exact runsTo_burst (s := loadXbuf _ (latch 0x7 arg s)) rfl rfl
  · exact runsTo_burst (s := loadXbuf _ (latch 0x8 arg s)) rfl rfl
  · exact runsTo_burst (s := loadXbuf _ (latch 0x9 arg s)) rfl rfl
  all_goals exact runsTo_silent (s := latch _ arg s) rfl rfl

/-- Settles O42: acceptance and the events lead to the state of the whole operation, which is not busy, so at least one
event is performed. -/
theorem operationIsItsEventByEventRun : Obligations.OperationIsItsEventByEventRun := by
  intro op arg s ⟨hb, _⟩ _
  have hbusy : (accept op arg s).busy = true := (accept_frame op arg s).1
  obtain ⟨n, hn, hrun⟩ := runsTo_accept op arg s
  refine ⟨hbusy, n, _, Nat.one_le_iff_ne_zero.2 fun h0 => ?_, hn, hrun, finish_busy .., ?_⟩
  · subst h0
    rw [Option.some.inj hrun, finish_busy] at hbusy
    cases hbusy
  · rw [decodeCmd_append, exec_opInstr, command_idle _ _ _ _ _ hb]

end Sys2Proof.Machine

namespace Sys2Proof.Machine

/-! ### Every running operation ends -/

/-- The events still to come at most (R111, R244): a start condition has 3, a byte 59, a stop condition 5. -/
def eventsLeft (s : State) : Nat :=
  match s.stage with
  | .idle => 1
  | .pullHigh => 9 + 59 * s.nbytes.toNat
  | .start => 3 - s.stepIdx.toNat + 59 * s.nbytes.toNat + 5
  | .byte =>
    6 * (8 - s.bitIdx.toNat) + 11 - s.stepIdx.toNat + 59 * (s.nbytes.toNat - s.byteIdx.toNat - 1) + 5
  | .stop => 5 - s.stepIdx.toNat

section
variable {s t : State}

theorem eventsLeft_idle (hg : s.stage = .idle) : eventsLeft s = 1 := by rw [eventsLeft, hg]
theorem eventsLeft_pullHigh (hg : s.stage = .pullHigh) : eventsLeft s = 9 + 59 * s.nbytes.toNat := by
  rw [eventsLeft, hg]
theorem eventsLeft_start (hg : s.stage = .start) :
    eventsLeft s = 3 - s.stepIdx.toNat + 59 * s.nbytes.toNat + 5 := by
  rw [eventsLeft, hg]
theorem eventsLeft_byte (hg : s.stage = .byte) :
    eventsLeft s =
      6 * (8 - s.bitIdx.toNat) + 11 - s.stepIdx.toNat + 59 * (s.nbytes.toNat - s.byteIdx.toNat - 1) + 5 := by
  rw [eventsLeft, hg]
theorem eventsLeft_stop (hg : s.stage = .stop) : eventsLeft s = 5 - s.stepIdx.toNat := by
  rw [eventsLeft, hg]

@[simp] theorem eventsLeft_dropLevel (s : State) : eventsLeft (dropLevel s) = eventsLeft s := by
  simp [eventsLeft]
@[simp] theorem eventsLeft_emit (e : PinEvent) (s : State) : eventsLeft (emit e s) = eventsLeft s := by
  simp [eventsLeft]

/-- The longest operation is a burst of six digits, with 421 events (R244). -/
theorem eventsLeft_le (h : s.Inv) (hb : s.busy = true) : eventsLeft s ≤ 421 := by
  have hn := s.nbytes.isLt
  cases hg : s.stage with
  | idle => rw [eventsLeft_idle hg]; decide
  | pullHigh =>
    obtain ⟨hop, hf⟩ := (positionLegal_pullHigh hb hg).1 h.position
    have h1 : s.nbytes = 1 := by simpa [frameLegal, hop] using hf
    rw [eventsLeft_pullHigh hg, h1]; decide
  | start => rw [eventsLeft_start hg]; omega
  | byte => rw [eventsLeft_byte hg]; omega
  | stop => rw [eventsLeft_stop hg]; omega

theorem eventsLeft_pos (h : s.Inv) (hb : s.busy = true) : 0 < eventsLeft s := by
  cases hg : s.stage with
  | idle => rw [eventsLeft_idle hg]; decide
  | pullHigh => rw [eventsLeft_pullHigh hg]; omega
  | start => rw [eventsLeft_start hg]; omega
  | byte => rw [eventsLeft_byte hg]; omega
  | stop =>
    obtain ⟨hk, -⟩ := (positionLegal_stop hb hg).1 h.position
    rw [eventsLeft_stop hg]; bv_omega

/-! #### An event brings the end nearer -/

theorem eventsLeft_advance_start (hg : s.stage = .start) (hk : s.stepIdx < 3) :
    eventsLeft (advance s) < eventsLeft s := by
  rw [eventsLeft_start hg, eventsLeft_start (s := advance s) hg]
  simp only [advance]
  bv_omega

theorem eventsLeft_advance_byte (hg : s.stage = .byte) (hk : s.stepIdx < 11) :
    eventsLeft (advance s) < eventsLeft s := by
  rw [eventsLeft_byte hg, eventsLeft_byte (s := advance s) hg]
  simp only [advance]
  bv_omega

theorem eventsLeft_advance_stop (hg : s.stage = .stop) (hk : s.stepIdx < 5) :
    eventsLeft (advance s) < eventsLeft s := by
  rw [eventsLeft_stop hg, eventsLeft_stop (s := advance s) hg]
  simp only [advance]
  bv_omega

/-- A frame that goes on to byte `k` has the events of the bytes from `k` on and of the stop condition before it. -/
theorem eventsLeft_startFrameByte {k : Nat} (h : startFrameByte k s = some t) (hk : k < 8) :
    eventsLeft t = 59 + 59 * (s.nbytes.toNat - k - 1) + 5 := by
  unfold startFrameByte at h
  split at h <;> cases h
  rw [eventsLeft_byte rfl]
  show 59 + 59 * (s.nbytes.toNat - (BitVec.ofNat 3 k).toNat - 1) + 5 = _
  rw [BitVec.toNat_ofNat, Nat.mod_eq_of_lt hk]

/-- The operation has ended, or it is nearer to its end. -/
def Nearer (s t : State) : Prop := t.busy = false ∨ eventsLeft t < eventsLeft s

theorem tickStart_nearer (h : s.Inv) (hb : s.busy = true) (hg : s.stage = .start) (ht : tickStart s = some t) :
    Nearer s t := by
  obtain ⟨hk, hop⟩ := (positionLegal_start hb hg).1 h.position
  rcases tickStart_cases ht with ⟨-, rfl⟩ | ⟨-, rfl⟩ | ⟨-, -, rfl⟩ | ⟨hk, hne, hf⟩
  · exact .inr (eventsLeft_advance_start (s := raiseBoth s) hg hk)
  · exact .inr (eventsLeft_advance_start (s := emit .delay s) hg hk)
  · exact .inl rfl
  · have hpos := nbytes_pos_of_frameLegal (hop.resolve_left hne)
    refine .inr ?_
    rw [eventsLeft_startFrameByte hf (by decide), eventsLeft_start hg, hk]
    show 59 + 59 * (s.nbytes.toNat - 0 - 1) + 5 < _
    bv_omega

theorem tickBit_nearer (hg : s.stage = .byte) (h8 : s.bitIdx < 8) (ht : tickBit s = some t) : Nearer s t := by
  rcases tickBit_cases ht with ⟨hk, e, rfl⟩ | ⟨hk, rfl⟩
  · refine .inr ?_
    rw [← eventsLeft_emit e s]
    exact eventsLeft_advance_byte (by rwa [emit_stage]) (by rw [emit_stepIdx]; bv_omega)
  · refine .inr ?_
    rw [eventsLeft_byte hg, eventsLeft_byte rfl, hk]
    simp only [enter, shiftBit, emit]
    bv_omega

theorem byteDone_nearer (h : s.Inv) (hb : s.busy = true) (hg : s.stage = .byte) (h8 : s.bitIdx = 8)
    (hk : s.stepIdx = 10) (ht : byteDone s = some t) : Nearer s t := by
  obtain ⟨-, hop⟩ := (positionLegal_byte hb hg).1 h.position
  have hleft : eventsLeft s = 1 + 59 * (s.nbytes.toNat - s.byteIdx.toNat - 1) + 5 := by
    rw [eventsLeft_byte hg, h8, hk]; rfl
  have hstop : 5 < eventsLeft s := by omega
  obtain ⟨b, u, rfl, ⟨-, rfl⟩ | ⟨-, rfl | rfl⟩ | ⟨hne, hlast, hf⟩⟩ := byteDone_cases ht
  · exact .inl rfl
  · exact .inr hstop
  · exact .inr hstop
  · obtain ⟨-, hlt⟩ := hop.resolve_left hne
    refine .inr ?_
    rw [hleft, eventsLeft_startFrameByte hf (by bv_omega)]
    simp only
    bv_omega

theorem tickAck_nearer {r : Level} (h : s.Inv) (hb : s.busy = true) (hg : s.stage = .byte) (h8 : s.bitIdx = 8)
    (ht : tickAck r s = some t) : Nearer s t := by
  rcases tickAck_cases ht with ⟨hk, -, e, rfl⟩ | ⟨hk, rfl⟩ | ⟨hk, hd⟩
  · refine .inr ?_
    rw [← eventsLeft_emit e s]
    exact eventsLeft_advance_byte (by rwa [emit_stage]) (by rw [emit_stepIdx]; bv_omega)
  · have hone : eventsLeft (advance (sampleAt r s)) < eventsLeft s :=
      eventsLeft_advance_byte (s := sampleAt r s) hg (by rw [sampleAt_stepIdx, hk]; decide)
    have htwo : eventsLeft (advance (advance (sampleAt r s))) < eventsLeft (advance (sampleAt r s)) :=
      eventsLeft_advance_byte (s := advance (sampleAt r s)) hg (by simp [hk])
    refine .inr ?_
    split
    · exact htwo.trans hone
    · exact hone
  · exact byteDone_nearer (s := emit .delay s) (emit_inv .delay h) hb hg h8 hk hd

theorem tickStop_nearer (h : s.Inv) (hb : s.busy = true) (hg : s.stage = .stop) (ht : tickStop s = some t) :
    Nearer s t := by
  obtain ⟨hk, -⟩ := (positionLegal_stop hb hg).1 h.position
  rcases tickStop_cases ht with ⟨-, e, rfl⟩ | ⟨-, x, rfl⟩
  · refine .inr ?_
    rw [← eventsLeft_emit e s]
    exact eventsLeft_advance_stop (by rwa [emit_stage]) (by rwa [emit_stepIdx])
  · exact .inl rfl

/-- An event of a running operation brings its end nearer, whatever level is sampled (R148). -/
theorem tick_nearer {r : Level} (h : s.Inv) (hb : s.busy = true) (ht : tick r s = some t) : Nearer s t := by
  unfold tick at ht
  split at ht
  case h_1 => rcases tickSilent_cases ht with rfl | rfl <;> exact .inl rfl
  case h_2 hg =>
    split at ht <;> cases ht
    refine .inr ?_
    rw [eventsLeft_pullHigh hg, eventsLeft_start rfl]
    show 3 + 59 * s.nbytes.toNat + 5 < _
    omega
  case h_3 hg => exact tickStart_nearer h hb hg ht
  case h_4 hg =>
    split at ht
    case isTrue h8 => exact tickAck_nearer h hb hg h8 ht
    case isFalse =>
      split at ht
      case isTrue hlt => exact tickBit_nearer hg hlt ht
      case isFalse => cases ht
  case h_5 hg => exact tickStop_nearer h hb hg ht

theorem tickInput_nearer (h : s.Inv) (hb : s.busy = true) (ht : tickInput s = some t) : Nearer s t := by
  unfold tickInput at ht
  split at ht
  · obtain ⟨u, hu, rfl⟩ := Option.map_eq_some_iff.1 ht
    simpa [Nearer] using tick_nearer h hb hu
  · exact tick_nearer h hb ht

/-! #### A running operation has a next event -/

/-- The frame operations are those with a wire command byte (R74, R80). -/
theorem commandByte_of_frameLegal (h : frameLegal s = true) : (commandByte s.op s.arg).isSome = true := by
  unfold frameLegal at h
  split at h
  case h_6 => cases h
  all_goals simp_all [commandByte]

/-- A frame has its wire command byte and one byte for each of the six positions (R29). -/
theorem frameByte_isSome {k : Nat} (hc : (commandByte s.op s.arg).isSome = true) (hk : k < 7) :
    ∃ b, frameByte s k = some b := by
  cases k with
  | zero => exact Option.isSome_iff_exists.1 hc
  | succ k => exact ⟨_, (if_pos hc).trans (Vector.getElem?_eq_getElem (by omega))⟩

theorem startFrameByte_answers {k : Nat} (hc : (commandByte s.op s.arg).isSome = true) (hk : k < 7) :
    ∃ t, startFrameByte k s = some t :=
  have ⟨_, hb⟩ := frameByte_isSome hc hk
  ⟨_, startFrameByte_of_frameByte hb⟩

theorem tickSilent_answers (h : s.op = opSetDigits ∨ isReservedOp s.op = true) : ∃ t, tickSilent s = some t := by
  unfold tickSilent
  split
  · exact ⟨_, rfl⟩
  case isFalse hne => exact ⟨_, if_pos (h.resolve_left hne)⟩

theorem tickStart_answers (h : s.Inv) (hb : s.busy = true) (hg : s.stage = .start) : ∃ t, tickStart s = some t := by
  obtain ⟨hk, hop⟩ := (positionLegal_start hb hg).1 h.position
  have hk : s.stepIdx = 0 ∨ s.stepIdx = 1 ∨ s.stepIdx = 2 := by bv_omega
  unfold tickStart
  rcases hk with hk | hk | hk <;> rw [hk]
  · exact ⟨_, rfl⟩
  · exact ⟨_, rfl⟩
  · by_cases hts : s.op = opTStart
    · exact ⟨_, if_pos hts⟩
    · obtain ⟨t, ht⟩ := startFrameByte_answers (s := endStart s) (k := 0)
        (commandByte_of_frameLegal (hop.resolve_left hts)) (by decide)
      exact ⟨t, (if_neg hts).trans ht⟩

theorem tickBit_answers (hk : s.stepIdx < 6) : ∃ t, tickBit s = some t := by
  have hk : s.stepIdx = 0 ∨ s.stepIdx = 1 ∨ s.stepIdx = 2 ∨ s.stepIdx = 3 ∨ s.stepIdx = 4 ∨ s.stepIdx = 5 := by
    bv_omega
  unfold tickBit
  rcases hk with hk | hk | hk | hk | hk | hk <;> rw [hk] <;> exact ⟨_, rfl⟩

/-- The byte being sent is the operand of `T_BYTE` or a byte the frame has (R29). -/
theorem currentByte_answers (hop : s.op = opTByte ∨ frameLegal s = true ∧ s.byteIdx < s.nbytes) :
    ∃ b, currentByte s = some b := by
  by_cases hne : s.op = opTByte
  · exact ⟨_, if_pos hne⟩
  · obtain ⟨hf, hlt⟩ := hop.resolve_left hne
    obtain ⟨b, hb⟩ := frameByte_isSome (k := s.byteIdx.toNat) (commandByte_of_frameLegal hf) (by bv_omega)
    exact ⟨b, (if_neg hne).trans hb⟩

theorem byteDone_answers (hop : s.op = opTByte ∨ frameLegal s = true ∧ s.byteIdx < s.nbytes) :
    ∃ t, byteDone s = some t := by
  obtain ⟨b, hb⟩ := currentByte_answers hop
  rw [byteDone_of_currentByte hb]
  unfold afterByte
  split
  · exact ⟨_, rfl⟩
  case isFalse hne =>
    split
    · exact ⟨_, rfl⟩
    · split
      · exact ⟨_, rfl⟩
      case isFalse hlast =>
        obtain ⟨hf, hlt⟩ := hop.resolve_left hne
        exact startFrameByte_answers (commandByte_of_frameLegal hf) (by dsimp only at hlast ⊢; bv_omega)

theorem tickAck_answers (r : Level) (hk : s.stepIdx ≤ 10) (h7 : s.stepIdx = 7 → s.ackv = false)
    (hop : s.op = opTByte ∨ frameLegal s = true ∧ s.byteIdx < s.nbytes) : ∃ t, tickAck r s = some t := by
  unfold tickAck
  split
  case h_8 hk => exact ⟨_, if_neg (by simp [h7 hk])⟩
  case h_11 => exact byteDone_answers (s := emit .delay s) hop
  case h_12 =>
    simp only [imp_false] at *
    bv_omega
  all_goals exact ⟨_, rfl⟩

theorem tickStop_answers (h : s.Inv) (hb : s.busy = true) (hg : s.stage = .stop) : ∃ t, tickStop s = some t := by
  obtain ⟨hk, hop⟩ := (positionLegal_stop hb hg).1 h.position
  have hk : s.stepIdx = 0 ∨ s.stepIdx = 1 ∨ s.stepIdx = 2 ∨ s.stepIdx = 3 ∨ s.stepIdx = 4 := by bv_omega
  unfold tickStop
  rcases hk with hk | hk | hk | hk | hk <;> rw [hk]
  case inr.inr.inr.inr =>
    by_cases hts : s.op = opTStop
    · exact ⟨_, if_pos hts⟩
    · exact ⟨_, (if_neg hts).trans (if_pos (commandByte_of_frameLegal (hop.resolve_left hts)))⟩
  all_goals exact ⟨_, rfl⟩

/-- A running operation in a legal position has a next event, whatever level is sampled (R29, R111). -/
theorem tick_answers (r : Level) (h : s.Inv) (hb : s.busy = true) : ∃ t, tick r s = some t := by
  unfold tick
  split
  case h_1 hg => exact tickSilent_answers ((positionLegal_idle hb hg).1 h.position)
  case h_2 hg =>
    obtain ⟨hop, -⟩ := (positionLegal_pullHigh hb hg).1 h.position
    exact ⟨_, if_pos hop⟩
  case h_3 hg => exact tickStart_answers h hb hg
  case h_4 hg =>
    obtain ⟨hc, hop⟩ := (positionLegal_byte hb hg).1 h.position
    split
    case isTrue h8 =>
      obtain ⟨hk, h7⟩ := (cellLegal_ack h8).1 hc
      exact tickAck_answers r hk h7 hop
    case isFalse h8 =>
      rw [cellLegal, if_neg h8, Bool.and_eq_true, decide_eq_true_eq, decide_eq_true_eq] at hc
      obtain ⟨hlt, hk⟩ := hc
      rw [if_pos hlt]
      exact tickBit_answers hk
  case h_5 hg => exact tickStop_answers h hb hg

theorem tickInput_answers (h : s.Inv) (hb : s.busy = true) : ∃ t, tickInput s = some t := by
  unfold tickInput
  split
  · obtain ⟨t, ht⟩ := tick_answers (comingLevel s 0) h hb
    exact ⟨dropLevel t, by rw [ht]; rfl⟩
  · exact tick_answers true h hb

/-! #### The end of the run -/

/-- As many events as are left at most end a running operation (R148, R242). -/
theorem runEvents_ends (n : Nat) {s : State} (h : s.Inv) (hn : s.busy = true → eventsLeft s ≤ n) :
    ∃ t, runEvents n s = some t ∧ t.busy = false := by
  induction n generalizing s with
  | zero =>
    refine ⟨s, rfl, Bool.eq_false_iff.2 fun hb => ?_⟩
    exact absurd (hn hb) (Nat.not_le.2 (eventsLeft_pos h hb))
  | succ n ih =>
    cases hb : s.busy with
    | false => exact ⟨s, runEvents_of_not_busy _ hb, hb⟩
    | true =>
      obtain ⟨u, hu⟩ := tickInput_answers h hb
      rw [runEvents_succ_of_busy n hb hu]
      refine ih (tickInput_inv h hb hu) fun hub => ?_
      have hleft := (tickInput_nearer h hb hu).resolve_left (by simp [hub])
      have hs := hn hb
      omega

/-- Settles O45: at most 421 events are left in a legal position, and each event leaves fewer. -/
theorem everyOperationEnds : Obligations.EveryOperationEnds :=
  fun _ h hb => runEvents_ends 421 h fun _ => eventsLeft_le h hb

end
end Sys2Proof.Machine

namespace Sys2Proof.Machine

/-! ### The entries of the encoder table -/

section
variable (alpha : Bool) (glyph : Byte → BitVec 7) {c c' : Byte}

/-- A letter of the subset, in either case, is no code of the fixed rows and no open digit (R181 to R183). -/
theorem letter_not_fixed_not_openDigit (h : isSubsetLetter (c &&& 0xDF) = true) :
    fixedGlyph c = none ∧ isOpenDigit c = false := by
  revert c; decide

/-- Either case of a letter reads the entry of the upper-case letter, and blank without the alphabet (R183). -/
theorem segWith_of_letter (h : isSubsetLetter (c &&& 0xDF) = true) :
    segWith alpha glyph c = if alpha then (glyph (c &&& 0xDF)).setWidth 8 else 0 := by
  obtain ⟨hfixed, hdigit⟩ := letter_not_fixed_not_openDigit h
  simp only [segWith, hfixed, hdigit, h, Bool.false_eq_true, if_false, if_true]

/-- The mapped codes are the fixed rows, the open digits and the letters: OTHER has the rest (R181 to R184). -/
theorem isMappedCode_eq_false_iff :
    isMappedCode c = false ↔
      fixedGlyph c = none ∧ isOpenDigit c = false ∧ isSubsetLetter (c &&& 0xDF) = false := by
  revert c; decide

theorem segWith_of_unmapped (h : isMappedCode c = false) : segWith alpha glyph c = 0 := by
  obtain ⟨hfixed, hdigit, hletter⟩ := isMappedCode_eq_false_iff.1 h
  simp only [segWith, hfixed, hdigit, hletter, Bool.false_eq_true, if_false]

/-- The fixed patterns leave the point's bit to the walk (R180, R181). -/
theorem fixedGlyph_pointBit {g : Byte} (h : fixedGlyph c = some g) : g.getLsbD 7 = false := by
  unfold fixedGlyph at h
  split at h <;> cases h <;> rfl

/-- An open entry has seven bits (R180). -/
theorem openGlyph_pointBit (g : BitVec 7) : (g.setWidth 8).getLsbD 7 = false := by
  simp

theorem segWith_pointBit (c : Byte) : (segWith alpha glyph c).getLsbD 7 = false := by
  unfold segWith
  split
  case h_1 g hg => exact fixedGlyph_pointBit hg
  case h_2 =>
    split
    · exact openGlyph_pointBit _
    · split
      · split
        · exact openGlyph_pointBit _
        · rfl
      · rfl

end

/-! ### The look-ups -/

/-- A letter that decodes is looked up by its own code (R183). -/
theorem exec_of_decodeLetter {upper : Byte} {lower : Bool} {i : Instr} (h : decodeLetter upper lower = some i)
    (s : State) : exec i s = lookUp (letterCode upper lower) s := by
  unfold decodeLetter at h
  split at h <;> cases h <;> rfl

/-- The row a code decodes to is the look-up of that code (R180). -/
theorem exec_decodeCode (c : Byte) (s : State) : exec (decodeCode c) s = lookUp c s := by
  by_cases hplain : c ∈ plainCodes
  · simp only [plainCodes, List.mem_cons, List.not_mem_nil, or_false] at hplain
    rcases hplain with rfl | rfl | rfl | rfl | rfl | rfl | rfl | rfl | rfl | rfl | rfl | rfl <;> rfl
  rw [decodeCode_of_not_plain hplain]
  cases hl : decodeLetter (c &&& 0xDF) (c.getLsbD 5) with
  | some i => exact (exec_of_decodeLetter hl s).trans (by rw [letterCode_upper])
  | none => exact exec_segromOther c s

/-- The upper case of either code of a letter of the subset is the letter (R82, R183). -/
theorem letterCode_and_upper {upper : Byte} (h : isSubsetLetter upper = true) (lower : Bool) :
    letterCode upper lower &&& 0xDF = upper := by
  revert upper lower; decide

/-- The look-up of a letter of the subset, in either case (R183). -/
theorem lookUp_letterCode {upper : Byte} (h : isSubsetLetter upper = true) (lower : Bool) (s : State) :
    lookUp (letterCode upper lower) s =
      .next { s with segOut := if Config.alphaEn then (Config.openGlyph upper).setWidth 8 else 0 } := by
  have hupper := letterCode_and_upper h lower
  rw [lookUp, segOf, segWith_of_letter _ _ (by rwa [hupper]), hupper]

/-- Settles O31: every part of the table has bit 7 clear, and each row is one look-up. -/
theorem encoderNeverSetsThePointBit : Obligations.EncoderNeverSetsThePointBit :=
  ⟨segWith_pointBit, fun _ => rfl, exec_decodeCode⟩

/-- Settles O30: a code that OTHER stands for is in no part of the table. -/
theorem unmappedCodesAreBlank : Obligations.UnmappedCodesAreBlank := by
  refine ⟨fun c s h => ?_, by decide, by decide⟩
  have hm : isMappedCode c = false := by simpa [WellFormed] using h
  rw [exec_segromOther, lookUp, segOf, segWith_of_unmapped _ _ hm]

/-- Settles O27: the first part of the table reads no parameter. -/
theorem fixedEncoderEntries : Obligations.FixedEncoderEntries :=
  ⟨fun _ => ⟨rfl, rfl, rfl, rfl, rfl, rfl, rfl⟩, fun _ _ => ⟨rfl, rfl, rfl, rfl, rfl, rfl, rfl⟩⟩

/-- Settles O28: the five open digits read the parameter's entry. -/
theorem openDigitEntries : Obligations.OpenDigitEntries :=
  fun _ => ⟨rfl, rfl, rfl, rfl, rfl⟩

/-- Settles O29: each row looks up one of the two codes of its letter. -/
theorem letterEntries : Obligations.LetterEntries := by
  intro s lower
  have h := fun (upper : Byte) (hu : isSubsetLetter upper = true) => lookUp_letterCode hu lower s
  exact ⟨h 0x41 rfl, h 0x42 rfl, h 0x43 rfl, h 0x44 rfl, h 0x45 rfl, h 0x46 rfl, h 0x47 rfl, h 0x48 rfl, h 0x49 rfl,
    h 0x4A rfl, h 0x4C rfl, h 0x4E rfl, h 0x4F rfl, h 0x50 rfl, h 0x51 rfl, h 0x52 rfl, h 0x53 rfl, h 0x54 rfl,
    h 0x55 rfl, h 0x59 rfl⟩

/-! ### The walk over a text -/

section
variable (seg : Byte → Byte) {txt txt' : Vector Byte 12} {n n' i : Nat} (d : Nat)

/-- A character with a point right after it (R185, R186). -/
theorem textWalk_point (hi : i + 1 < n) (hp : charAt txt (i + 1) = pointCode) :
    textWalk seg txt n (d + 1) i = (seg (charAt txt i) ||| pointBit) :: textWalk seg txt n d (i + 2) := by
  rw [textWalk, if_pos (by omega), if_pos ⟨hi, hp⟩]

/-- A character with no point after it (R186). -/
theorem textWalk_character (hi : i < n) (hp : ¬(i + 1 < n ∧ charAt txt (i + 1) = pointCode)) :
    textWalk seg txt n (d + 1) i = seg (charAt txt i) :: textWalk seg txt n d (i + 1) := by
  rw [textWalk, if_pos hi, if_neg hp]

/-- From the end of the text on every position is blank (R187). -/
theorem textWalk_ended (hi : n ≤ i) : textWalk seg txt n d i = List.replicate d 0 := by
  induction d with
  | zero => rfl
  | succ d ih => rw [textWalk, if_neg (by omega), ih, List.replicate_succ]

/-- Each position takes a character or more: position `p` is blank when fewer than `p + 1` are left (R187). -/
theorem textWalk_blank {p : Nat} (hn : n ≤ i + p) (hp : p < d) : (textWalk seg txt n d i)[p]? = some 0 := by
  induction d generalizing i p with
  | zero => omega
  | succ d ih =>
    by_cases hi : i < n
    · obtain ⟨q, rfl⟩ : ∃ q, p = q + 1 := ⟨p - 1, by omega⟩
      by_cases hpoint : i + 1 < n ∧ charAt txt (i + 1) = pointCode
      · rw [textWalk_point seg d hpoint.1 hpoint.2, List.getElem?_cons_succ]
        exact ih (by omega) (by omega)
      · rw [textWalk_character seg d hi hpoint, List.getElem?_cons_succ]
        exact ih (by omega) (by omega)
    · rw [textWalk_ended seg (d + 1) (by omega), List.getElem?_replicate_of_lt hp]

/-- Texts that agree on the next `2d` characters, as far as they go, are walked alike over `d` positions (R188). -/
theorem textWalk_congr (ht : ∀ k, k < i + 2 * d → charAt txt k = charAt txt' k)
    (hn : min n (i + 2 * d) = min n' (i + 2 * d)) : textWalk seg txt n d i = textWalk seg txt' n' d i := by
  induction d generalizing i with
  | zero => rfl
  | succ d ih =>
    by_cases hi : i < n
    · have hchar := ht i (by omega)
      have hnext := ht (i + 1) (by omega)
      by_cases hpoint : i + 1 < n ∧ charAt txt (i + 1) = pointCode
      · obtain ⟨hlt, hp⟩ := hpoint
        rw [textWalk_point seg d hlt hp, textWalk_point seg d (by omega) (hnext ▸ hp), hchar,
          ih (fun k hk => ht k (by omega)) (by omega)]
      · have hpoint' : ¬(i + 1 < n' ∧ charAt txt' (i + 1) = pointCode) := fun ⟨hlt, hp⟩ =>
          hpoint ⟨by omega, hnext ▸ hp⟩
        rw [textWalk_character seg d hi hpoint, textWalk_character seg d (by omega) hpoint', hchar,
          ih (fun k hk => ht k (by omega)) (by omega)]
    · rw [textWalk_ended seg _ (by omega), textWalk_ended seg _ (by omega)]

/-- Texts with the same entries and the same points are walked alike. -/
theorem textWalk_congr_entries (hs : ∀ k, seg (charAt txt k) = seg (charAt txt' k))
    (hp : ∀ k, charAt txt k = pointCode ↔ charAt txt' k = pointCode) :
    textWalk seg txt n d i = textWalk seg txt' n d i := by
  induction d generalizing i with
  | zero => rfl
  | succ d ih => rw [textWalk, textWalk]; simp only [hs, hp, ih]

end

/-- Settles O23: one byte per position, blank from the end of the text on (R187). -/
theorem walkGivesOneBytePerPosition : Obligations.WalkGivesOneBytePerPosition :=
  fun seg txt n d i => ⟨textWalk_length seg txt n d i, textWalk_ended seg d,
    fun _ hn hp => textWalk_blank seg d (by omega) hp⟩

/-- Settles O24: the walk from the first character, where the next `2d` characters are those below `2d` (R188). -/
theorem walkReadsAtMostTwoCharactersPerPosition : Obligations.WalkReadsAtMostTwoCharactersPerPosition :=
  fun seg _ _ _ _ d ht hn => textWalk_congr seg d (by simpa using ht) (by simpa using hn)

/-- Settles O26: the point's clause of the walk, and the two scenarios, whose characters the source fixes (R191). -/
theorem encoderPropertiesOfTheSource : Obligations.EncoderPropertiesOfTheSource :=
  ⟨fun _ _ d _ => textWalk_point segOf d, rfl, rfl⟩

/-! ### The case of letters -/

/-- The same code, or the two cases of one letter of the subset (R190). -/
def SameUpToCase (c c' : Byte) : Prop := c = c' ∨ (isSubsetLetter (c &&& 0xDF) = true ∧ c &&& 0xDF = c' &&& 0xDF)

/-- The two cases of a letter read one entry, whatever the parameters (R183). -/
theorem SameUpToCase.segWith_eq {c c' : Byte} (h : SameUpToCase c c') (alpha : Bool) (glyph : Byte → BitVec 7) :
    segWith alpha glyph c = segWith alpha glyph c' := by
  rcases h with rfl | ⟨hletter, hupper⟩
  · rfl
  · rw [segWith_of_letter _ _ hletter, segWith_of_letter _ _ (hupper ▸ hletter), hupper]

theorem not_point_of_letter {c : Byte} (h : isSubsetLetter (c &&& 0xDF) = true) : c ≠ pointCode := by
  rintro rfl; exact absurd h (by decide)

/-- A point is no letter, so it differs from every other code (R189). -/
theorem SameUpToCase.point_iff {c c' : Byte} (h : SameUpToCase c c') : c = pointCode ↔ c' = pointCode := by
  rcases h with rfl | ⟨hletter, hupper⟩
  · rfl
  · exact iff_of_false (not_point_of_letter hletter) (not_point_of_letter (hupper ▸ hletter))

/-- Settles O25: texts equal up to the case of letters have the same entries and the same points (R190). -/
theorem letterCaseDoesNotMatter : Obligations.LetterCaseDoesNotMatter := by
  refine ⟨fun alpha glyph txt txt' n d i h => ?_, fun glyph c h => segWith_of_letter false glyph h⟩
  have hsame : ∀ k, SameUpToCase (charAt txt k) (charAt txt' k) := h
  exact textWalk_congr_entries _ d (fun k => (hsame k).segWith_eq alpha glyph) fun k => (hsame k).point_iff

/-! ### WRITE_STR -/

/-- Settles O22: the burst of the walk's bytes (R186). -/
theorem writeStrSendsTheEncodedText : Obligations.WriteStrSendsTheEncodedText := by
  refine ⟨decode_cmd_append 0x8, fun n s hb hd => ?_, fun _ _ _ _ => ⟨rfl, rfl⟩⟩
  have h := command_burst_ends (op := opWriteStr) (arg := n) (body := textBurst n) (bs := textBytes n s) hb hd rfl
    (textBytes_length n s hd)
  rw [textBytes_eq_textWalk n s hd] at h
  exact h

end Sys2Proof.Machine

namespace Sys2Proof.Machine

/-! ### A byte not acknowledged -/

/-- After a byte not acknowledged nothing is known of the receiver, nor where it stands (R218; log 14). -/
theorem sendByte_rx_nack (b : Byte) {s : State} (h : comingLevel s 0 = true) : (sendByte b s).rx = Receiver.forget := by
  rw [sendByte_eq]
  simp [Receiver.onByte, h]

/-- The byte sender between operations, its byte not acknowledged (R74, R218). -/
theorem wireByte_rx_nack (b : Byte) {s : State} (hb : s.busy = false) (h : comingLevel s 0 = true) :
    ∃ t, wireByte b s = .next t ∧ t.rx = Receiver.forget :=
  ⟨_, wireByte_idle hb, sendByte_rx_nack b h⟩

/-- The stop condition of a frame with a byte not acknowledged: nothing is known of the receiver, which stands outside
a frame (R140, R218; log 27). -/
theorem frame_rx_nack {bs : List Byte} {s : State} (h : someNack bs.length (comingLevel s) = true) :
    (frame bs s).rx = Receiver.unknownAt .outside := by
  rw [frame, stopCondition_eq, sendBytes_rx_nack _ _ _ (by rwa [comingLevel_frameStart])]
  rfl

/-- Settles O41: the five single bytes are the byte sender, `T_BYTE` between its latch and its end; the five frames end
with the stop condition of a frame with a byte not acknowledged. -/
theorem nothingIsKnownAfterAByteNotAcknowledged : Obligations.NothingIsKnownAfterAByteNotAcknowledged := by
  refine ⟨fun b bbb s hb hnack i hi => ?_, fun i bs s hframe hb hd hnack => ?_⟩
  · simp only [List.mem_cons, List.not_mem_nil, or_false] at hi
    rcases hi with rfl | rfl | rfl | rfl | rfl
    · exact ⟨_, exec_tByte_idle hb b, sendByte_rx_nack b (by rwa [comingLevel_latch])⟩
    · exact wireByte_rx_nack dataCmd hb hnack
    · exact wireByte_rx_nack addrCmd hb hnack
    · exact wireByte_rx_nack dispOff hb hnack
    · exact wireByte_rx_nack (dispOn bbb) hb hnack
  · obtain ⟨c, cs, u, t, rfl, ht, hend, -, hc⟩ := exec_of_frameBytes hframe hb hd
    exact ⟨t, ht, hend.rx.trans (frame_rx_nack (by rwa [hc]))⟩

/-! ### No step faults -/

section
variable {s : State}

theorem afterBufferPort_inv (p : PortIn) (h : s.Inv) : (afterBufferPort p s).Inv := by
  unfold afterBufferPort
  split
  · exact bufWrite_inv _ _ _ (clearDone_inv h)
  · exact clearDone_inv h

/-- A clock cycle without reset in which nothing runs and no command word is presented: the buffer port alone (R33). -/
theorem clockCycle_of_wait {p : PortIn} (hr : p.rstN = true) (hv : p.cmdValid = false) (hb : s.busy = false) :
    clockCycle p s = .next (afterBufferPort p s) := by
  have ht := (afterBufferPort_busy p s).trans hb
  rw [clockCycle, if_neg (by simp [hr])]
  change (if (afterBufferPort p s).busy then _ else _) = _
  rw [if_neg (by simp [ht]), if_neg (by simp [hv])]
  rfl

/-- A clock cycle answers a next state: a reset, a running operation's next event, an acceptance and waiting all do
(R33, R212). -/
theorem clockCycle_answers (p : PortIn) (h : s.Inv) : ∃ t, clockCycle p s = .next t := by
  cases hr : p.rstN with
  | false => exact ⟨blockReset s, if_pos (by simp [hr])⟩
  | true =>
    cases hb : s.busy with
    | true =>
      obtain ⟨t, ht⟩ := tick_answers p.rxSda (afterBufferPort_inv p h) ((afterBufferPort_busy p s).trans hb)
      exact ⟨t, by rw [clockCycle_of_busy hr hb, ht]; rfl⟩
    | false =>
      cases hv : p.cmdValid with
      | true => exact ⟨_, clockCycle_of_accept hr hv hb⟩
      | false => exact ⟨_, clockCycle_of_wait hr hv hb⟩

/-- A running operation goes on (R148, R212). -/
theorem continueOperation_answers (h : s.Inv) (hb : s.busy = true) : ∃ t, continueOperation s = .next t := by
  obtain ⟨t, ht⟩ := tickInput_answers (clearDone_inv h) hb
  exact ⟨t, (continueOperation_eq_next_iff s t).2 ht⟩

/-- Everything a step from a state that meets the invariant can answer: a next state, or the refusal of a host action
that is no instruction (R78, R212; log 19). -/
theorem step_answers_or_refuses (h : s.Inv) :
    (∃ t, step s = .next t) ∨ ∃ e, step s = .refused (.notAnInstruction e) := by
  unfold step
  split
  case h_1 p rest _ =>
    exact .inl (clockCycle_answers (s := { s with host := rest }) p ⟨h.digits, h.position, h.memory⟩)
  case h_2 =>
    split
    case isTrue hb => exact .inl (continueOperation_answers h hb)
    case isFalse => exact .inl ⟨clearDone s, rfl⟩
  case h_3 w rest _ =>
    split
    case isTrue hb => exact .inl (continueOperation_answers h hb)
    case isFalse =>
      split
      case h_1 i _ => exact .inl (everyInstructionAnswersANextState i (takeAction rest s))
      case h_2 e _ => exact .inr ⟨e, rfl⟩

end

/-- Settles O50: a step answers a next state or refuses a host action, and neither is a fault. -/
theorem noStepFaults : Obligations.NoStepFaults := by
  intro s f h hf
  rcases step_answers_or_refuses h with ⟨t, ht⟩ | ⟨e, he⟩
  · cases ht.symm.trans hf
  · cases he.symm.trans hf

end Sys2Proof.Machine

namespace Sys2Proof.Machine

/-! ### How many delays and events each piece has (R244) -/

/-- Three delays in each of the eight bit cells, five in the acknowledgment cell, whatever is sampled (R106 to R108). -/
theorem byteEvents_delays (b : Byte) (a : Level) : (byteEvents b a).count .delay = 29 :=
  (countP_byteEvents _ 3 (by decide) b a).trans (by cases a <;> rfl)

/-- Beside the bytes sent, a frame has the delays of its start and stop conditions. -/
theorem frameEvents_delays (bs : List Byte) (f : Nat → Level) :
    (frameEvents bs f).count .delay = 3 + 29 * sentCount bs f := by
  have hbytes : (bytesEvents bs f).count .delay = 29 * sentCount bs f :=
    countP_bytesEvents _ 29 byteEvents_delays bs f
  have hstart : startEvents.count .delay = 1 := by decide
  have hstop : stopEvents.count .delay = 2 := by decide
  rw [frameEvents, List.count_append, List.count_append, hbytes, hstart, hstop]
  omega

/-- Beside the bytes sent, a frame has the events of its start and stop conditions; a byte not acknowledged lacks the
conditional `DAT0`. -/
theorem frameEvents_length (bs : List Byte) (f : Nat → Level) :
    (frameEvents bs f).length + (if someNack bs.length f then 1 else 0) = 8 + 59 * sentCount bs f := by
  have hbytes := bytesEvents_length bs f
  have hstart : startEvents.length = 3 := rfl
  have hstop : stopEvents.length = 5 := rfl
  rw [frameEvents, List.length_append, List.length_append, hstart, hstop]
  omega

theorem sentCount_single (b : Byte) (f : Nat → Level) : sentCount [b] f = 1 :=
  Nat.le_antisymm (sentCount_le_length [b] f) (sentCount_pos b [] f)

theorem frameEvents_single_delays (b : Byte) (f : Nat → Level) : (frameEvents [b] f).count .delay = 32 := by
  rw [frameEvents_delays, sentCount_single]

theorem frameEvents_single_length (b : Byte) (f : Nat → Level) :
    (frameEvents [b] f).length = if f 0 then 66 else 67 := by
  have h := frameEvents_length [b] f
  rw [sentCount_single, List.length_singleton, someNack_one] at h
  cases h0 : f 0 <;> simpa [h0] using h

theorem someNack_eq_false_of_acked {m : Nat} {f : Nat → Level} (h : ∀ k, k < m → f k = false) :
    someNack m f = false := by
  simpa [someNack] using h

/-- Settles O57: the cells are finite lists; a frame has what its two conditions and the bytes sent have, and an
acknowledged frame sends all its bytes. -/
theorem delayAndEventCounts : Obligations.DelayAndEventCounts := by
  refine ⟨by decide, rfl, by decide, by decide, fun b a => ⟨byteEvents_delays b a, byteEvents_length b a⟩,
    by decide, rfl, fun c f => ⟨frameEvents_single_delays c f, frameEvents_single_length c f⟩, fun c f => ⟨?_, ?_⟩,
    fun bs f hacked => ?_, fun c s hb => ?_⟩
  · rw [List.count_cons_of_ne (by decide), frameEvents_single_delays]
  · rw [List.length_cons, frameEvents_single_length]
    cases f 0 <;> rfl
  · have hnack : someNack (0xC0 :: bs).length f = false :=
      someNack_eq_false_of_acked fun k hk => hacked k (Nat.le_of_lt_succ hk)
    have hsent : sentCount (0xC0 :: bs) f = 1 + bs.length := by
      rw [sentCount_of_acked _ f hnack, List.length_cons, Nat.add_comm]
    have hlen := frameEvents_length (0xC0 :: bs) f
    rw [hnack, hsent] at hlen
    exact ⟨by rw [frameEvents_delays, hsent], hlen⟩
  · obtain ⟨t, ht, -, -, hnone, -⟩ := setDigitsClampsTheCount.2 c s hb
    exact ⟨t, ht, hnone.trace⟩

/-! ### The block that waits -/

/-- The arm of the step with no host action and no running operation (R230; log 18). -/
theorem step_of_wait {s : State} (hb : s.busy = false) (hh : s.host = []) : step s = .next (clearDone s) := by
  simp [step, hh, hb]

/-- Settles O6: the waiting arm of the step, with `clearDone` read as the update of `done`. -/
theorem idleBlockWaits : Obligations.IdleBlockWaits :=
  fun _ hb hh => step_of_wait hb hh

/-! ### Reset at the ports -/

/-- Reset goes before every other input of the cycle (R230; log 22). -/
theorem clockCycle_of_reset {p : PortIn} (hr : p.rstN = false) (s : State) :
    clockCycle p s = .next (blockReset s) := by
  simp [clockCycle, hr]

/-- A reset leaves nothing known of the receiver but, at most, where it stands (R231). -/
theorem resetReceiver_knows_nothing (s : State) :
    (resetReceiver s).mem = [] ∧ (resetReceiver s).dataMode = false ∧ (resetReceiver s).display = none := by
  rcases resetReceiver_cases s with ⟨-, -, -, -, h⟩ | h <;> rw [h] <;> exact ⟨rfl, rfl, rfl⟩

/-- Settles O47: the block takes the values of power-on, and of the receiver only the place may stay known, which it
does not when an operation was running. -/
theorem resetEndsARunningOperation : Obligations.ResetEndsARunningOperation := by
  intro p s hr
  obtain ⟨hmem, hmode, hdisplay⟩ := resetReceiver_knows_nothing s
  refine ⟨blockReset s, clockCycle_of_reset hr s, rfl, rfl, rfl, rfl, rfl, rfl, rfl, rfl, hmem, hmode, hdisplay,
    fun hb => ?_⟩
  change (resetReceiver s).place = .lost
  rw [resetReceiver_busy s hb]
  rfl

end Sys2Proof.Machine
